-- ==== Sys2Proof/Word.lean ====
section
/-! DEFINITION. The words of the part (bytes, sequence numbers, counters, readings of the time base), the names
of lines and tributaries (00 section 4.5), and fixed collections of one item for each line, tributary or pin. -/

namespace Sys2Proof

/-- One byte of a frame, a strap group or a pin group. -/
abbrev Byte := BitVec 8

/-- A stream or beacon sequence number; all its arithmetic is modulo 65536 (R6). -/
abbrev SeqNo := BitVec 16

/-- A reading of the free-running microsecond time base (R7). -/
abbrev Time := BitVec 32

/-- A statistics counter: 16 bits, wrapping from 65535 to 0 (00 section 4.3). -/
abbrev Counter := BitVec 16

/-- The two line ports (00 section 4.5). -/
inductive Line where
  | a
  | b
deriving DecidableEq, Repr

/-- The other line of A is B, and of B is A (00 section 4.5). -/
def Line.other : Line → Line
  | .a => .b
  | .b => .a

/-- The four tributaries (00 section 4.5). -/
inductive Trib where
  | t0
  | t1
  | t2
  | t3
deriving DecidableEq, Repr

/-- The tributary after Tn, from T3 back to T0 (R165). -/
def Trib.next : Trib → Trib
  | .t0 => .t1
  | .t1 => .t2
  | .t2 => .t3
  | .t3 => .t0

/-- The number of a tributary, 0 to 3. -/
def Trib.toNat : Trib → Nat
  | .t0 => 0
  | .t1 => 1
  | .t2 => 2
  | .t3 => 3

/-- All four tributaries in ascending number. -/
def Trib.all : List Trib := [.t0, .t1, .t2, .t3]

/-- One item for each line. -/
structure Pair (α : Type) where
  a : α
  b : α
deriving DecidableEq, Repr

/-- The item of one line. -/
def Pair.get {α : Type} (p : Pair α) : Line → α
  | .a => p.a
  | .b => p.b

/-- The pair with the item of one line replaced. -/
def Pair.set {α : Type} (p : Pair α) (l : Line) (x : α) : Pair α :=
  match l with
  | .a => { p with a := x }
  | .b => { p with b := x }

/-- The pair with a function applied to both items. -/
def Pair.map {α β : Type} (f : α → β) (p : Pair α) : Pair β := ⟨f p.a, f p.b⟩

/-- One item for each tributary. -/
structure Quad (α : Type) where
  t0 : α
  t1 : α
  t2 : α
  t3 : α
deriving DecidableEq, Repr

/-- The item of one tributary. -/
def Quad.get {α : Type} (q : Quad α) : Trib → α
  | .t0 => q.t0
  | .t1 => q.t1
  | .t2 => q.t2
  | .t3 => q.t3

/-- The collection with the item of one tributary replaced. -/
def Quad.set {α : Type} (q : Quad α) (t : Trib) (x : α) : Quad α :=
  match t with
  | .t0 => { q with t0 := x }
  | .t1 => { q with t1 := x }
  | .t2 => { q with t2 := x }
  | .t3 => { q with t3 := x }

/-- The collection whose item for Tn is `f` of Tn. -/
def Quad.ofFn {α : Type} (f : Trib → α) : Quad α := ⟨f .t0, f .t1, f .t2, f .t3⟩

/-- One item for each of eight pins, or for each bit of a byte. -/
structure Oct (α : Type) where
  p0 : α
  p1 : α
  p2 : α
  p3 : α
  p4 : α
  p5 : α
  p6 : α
  p7 : α
deriving DecidableEq, Repr

/-- The item of one pin. -/
def Oct.get {α : Type} (o : Oct α) (i : Fin 8) : α :=
  match i with
  | 0 => o.p0
  | 1 => o.p1
  | 2 => o.p2
  | 3 => o.p3
  | 4 => o.p4
  | 5 => o.p5
  | 6 => o.p6
  | 7 => o.p7

/-- The collection whose item for pin i is `f i`. -/
def Oct.ofFn {α : Type} (f : Fin 8 → α) : Oct α := ⟨f 0, f 1, f 2, f 3, f 4, f 5, f 6, f 7⟩

/-- The eight items in ascending number. -/
def Oct.toList {α : Type} (o : Oct α) : List α := [o.p0, o.p1, o.p2, o.p3, o.p4, o.p5, o.p6, o.p7]

/-- The byte whose bit i is item i (R10: bit n stands for INn). -/
def Oct.bits (o : Oct Bool) : Byte :=
  BitVec.ofNat 8 (o.p0.toNat + 2 * o.p1.toNat + 4 * o.p2.toNat + 8 * o.p3.toNat
    + 16 * o.p4.toNat + 32 * o.p5.toNat + 64 * o.p6.toNat + 128 * o.p7.toNat)

end Sys2Proof
end

