-- ==== Sys2Proof/Syntax.lean ====
section
/-! DEFINITION. The commands of the part: one constructor of `Instr` for each row of spec/opcode_table.json.
A command is an event that reaches the part: at the reset pin, at a front end, at a timer, or the request unit's
taking of one request (95). The operands of a request are its decoded fields (R167). -/

namespace Sys2Proof

/-- Which frame an end-of-transmission event is reported for: the frame in flight, or an earlier frame that was
lost or aborted, whose event has no effect (R87, R131). -/
inductive Ended where
  | inFlight
  | lost
deriving DecidableEq, Repr

/-- The fields of one binding of a MIRROR request, as received (R167). -/
structure BindingFields where
  bay : Byte
  bit : Byte
  policy : Byte
  safe : Byte
deriving DecidableEq, Repr

/-- The profile fields a SETUP names; an absent field is `none` (R168). -/
structure SetupFields where
  lapBudget : Option Byte
  beaconInterval : Option Byte
  claimHold : Option (BitVec 16)
  serviceList : Option (List Byte)
  urgentBurst : Option Byte
  floorA : Option Byte
  floorB : Option Byte
  dwell : Option Byte
  qualityPeriod : Option (BitVec 16)
  qualityThreshold : Option Byte
  skewLimit : Option (BitVec 16)
deriving DecidableEq, Repr

/-- The mirror fields a MIRROR request names; an absent field is `none`. A binding that is present is `some none`
for kind byte 0 and `some (some f)` for kind byte 1 (R167). -/
structure MirrorFields where
  publish : Option Byte
  enableMask : Option Byte
  maskValues : Option Byte
  debounce : Option Byte
  refresh : Option (BitVec 16)
  bindings : Oct (Option (Option BindingFields))
deriving DecidableEq, Repr

/-- The commands. -/
inductive Instr where
  /-- POWER_ON_RESET: the straps and the input levels at the reset (R2, R155). -/
  | powerOnReset (bay : Byte) (lapsel : BitVec 2) (inputs : Byte)
  /-- LINK_UP (R84). -/
  | linkUp (t : Trib)
  /-- LINK_DOWN (R85). -/
  | linkDown (t : Trib)
  /-- TRIBUTARY_FRAME_RECEIVED: the byte string the front end hands over (R88). -/
  | tributaryFrameReceived (t : Trib) (bytes : List Byte)
  /-- TRIBUTARY_END_OF_TRANSMISSION (R87). -/
  | tributaryEndOfTransmission (t : Trib) (of : Ended)
  /-- CLAIM_HOLD_EXPIRY (R36). -/
  | claimHoldExpiry (t : Trib)
  /-- CLAIM (R22). -/
  | claim (t : Trib) (index cls : Byte)
  /-- RELEASE (R24). -/
  | release (t : Trib) (index : Byte)
  /-- JOIN (R26). -/
  | join (t : Trib) (bay index : Byte) (p : BitVec 24) (m : Byte)
  /-- LEAVE (R31). -/
  | leave (t : Trib) (bay index : Byte)
  /-- DETACH (R39). -/
  | detach (t : Trib)
  /-- LINE with action ENABLE (R113). -/
  | lineEnable (t : Trib) (line : Byte)
  /-- LINE with action DISABLE (R112). -/
  | lineDisable (t : Trib) (line : Byte)
  /-- LINE with action RESTART (R111). -/
  | lineRestart (t : Trib) (line : Byte)
  /-- SETUP (R168). -/
  | setup (t : Trib) (fields : SetupFields)
  /-- MIRROR (R169). -/
  | mirror (t : Trib) (fields : MirrorFields)
  /-- READ with target STREAM (R170). -/
  | readStream (t : Trib) (bay index : Byte)
  /-- READ with target LINE (R170). -/
  | readLine (t : Trib) (line : Byte)
  /-- READ with target RING (R170). -/
  | readRing (t : Trib)
  /-- READ with target TRIBUTARY (R170). -/
  | readTributary (t : Trib)
  /-- READ with target PROFILE (R170). -/
  | readProfile (t : Trib)
  /-- READ with target MIRROR (R170). -/
  | readMirror (t : Trib)
  /-- CLEAR (R172). -/
  | clear (t : Trib) (kinds : BitVec 16)
  /-- REQUEST_UNKNOWN: a request that is none of the requests above (R166; log 8). -/
  | requestUnknown (t : Trib) (code : Byte) (fields : List Byte)
  /-- LOCK_ACQUIRED (R107). -/
  | lockAcquired (l : Line)
  /-- LOCK_LOST (R108). -/
  | lockLost (l : Line)
  /-- DWELL_EXPIRY (R106). -/
  | dwellExpiry (l : Line)
  /-- QUALITY_PERIOD_EXPIRY (R115). -/
  | qualityPeriodExpiry (l : Line)
  /-- LINE_FRAME_RECEIVED: the byte string the front end hands over (R117). -/
  | lineFrameReceived (l : Line) (bytes : List Byte)
  /-- LINE_END_OF_TRANSMISSION (R129). -/
  | lineEndOfTransmission (l : Line) (of : Ended)
  /-- BEACON_TIMER_EXPIRY (R141). -/
  | beaconTimerExpiry
  /-- ROSTER_EXPIRY: of part `l` of the record of `bay` (R151). -/
  | rosterExpiry (bay : Byte) (l : Line)
  /-- SILENCE_TIMER_EXPIRY: of timer `l` of the stream bay/index (R68). -/
  | silenceTimerExpiry (bay index : Byte) (l : Line)
  /-- CONTACT_SAMPLE: the levels of the eight inputs, bit n for INn (R155). -/
  | contactSample (levels : Byte)
  /-- REFRESH_TIMER_EXPIRY (R157). -/
  | refreshTimerExpiry
deriving DecidableEq, Repr

end Sys2Proof
end

