-- ==== Sys2Proof/Decode.lean ====
section
/-! DEFINITION. The command that a word of the opcode table spells. The table gives none of its rows any bits: its
commands are events, so no word spells one. -/

namespace Sys2Proof

/-- The command a word of `nbits` bits spells: none, since no row of spec/opcode_table.json has bits. -/
def decodeTableWord (_nbits _w : Nat) : Option Instr := none

end Sys2Proof
end

