-- ==== Sys2Proof/Config.lean ====
section
/-! DEFINITION. What is fixed for the part: the capacities its rules give, and the one value the manual leaves free. -/

namespace Sys2Proof.Config

/-- Slots of the stream table (R16, R20). -/
def tableSlots : Nat := 64

/-- Capacity of a tributary's urgent delivery queue (R94). -/
def urgentDeliveryCapacity : Nat := 8

/-- Capacity of a tributary's normal delivery queue (R94). -/
def normalDeliveryCapacity : Nat := 32

/-- The count at which the normal delivery queue raises NEAR_FULL (R96). -/
def nearFullCount : Nat := 24

/-- Capacity of a request buffer (R164). -/
def requestBufferCapacity : Nat := 2

/-- Records an outstanding list holds (R143). -/
def outstandingCapacity : Nat := 4

/-- Records the ring roster holds (R150). -/
def rosterCapacity : Nat := 63

/-- The distance between two sample events of the contact inputs, in microseconds (R155). -/
def samplePeriod : Nat := 250

/-- FREE VALUE (log 10): the manual does not say which bay READ RING names when several bays share the largest
distance on a line (R152). The n-th use of this choice picks the bay at this position among them, modulo their
number. Nothing constrains it. -/
opaque freePick : Nat → Nat

end Sys2Proof.Config
end

