-- ==== Sys2Proof/Machine/Records.lean ====
section
/-! DEFINITION. The records the blocks of the part hold, as the manual lists them: frames, delivery records,
requests and replies, the stream entry, the tributary port, the line receiver, the line egress, the ring unit, the
contact mirror and the ring profile. Plain data; what is done with them is in the files of the blocks. -/

namespace Sys2Proof.Machine

/-! ### Frames and records (chapter 1) -/

/-- A stream identifier (R1). -/
structure StreamId where
  bay : Byte
  index : Byte
deriving DecidableEq, Repr

/-- Stream classes (R4). -/
inductive StreamClass where
  | urgent
  | periodic
  | general
deriving DecidableEq, Repr

/-- What the type code of a ring frame says (R8). -/
inductive FrameKind where
  | stream (cls : StreamClass)
  | beacon
deriving DecidableEq, Repr

/-- A ring frame, without the check, which is computed from the rest (R8). -/
structure RingFrame where
  kind : FrameKind
  origin : Byte
  index : Byte
  lap : Byte
  seq : SeqNo
  payload : List Byte
deriving DecidableEq, Repr

/-- Health of a supervised stream (R62). -/
inductive Health where
  | waiting
  | dual
  | singleA
  | singleB
  | lost
deriving DecidableEq, Repr

/-- A health as shown: that of a supervised stream, or LOCAL for an own-bay stream (R62). -/
inductive ShownHealth where
  | supervised (h : Health)
  | localStream
deriving DecidableEq, Repr

/-- Kinds of delivery record (R14). -/
inductive RecordKind where
  | data
  | lost
  | restored
deriving DecidableEq, Repr

/-- Origin line of a delivery record (R14). -/
inductive Origin where
  | none
  | line (l : Line)
  | localFanOut
deriving DecidableEq, Repr

/-- A delivery record (R14). -/
structure DeliveryRecord where
  kind : RecordKind
  id : StreamId
  seq : SeqNo
  origin : Origin
  late : Bool
  resync : Bool
  gap : Option Nat
  health : ShownHealth
  payload : List Byte
deriving DecidableEq, Repr

/-- A request as it waits in a request buffer: code, tag and fields, not yet decoded (R13, R164). -/
structure Request where
  code : Byte
  tag : Byte
  fields : List Byte
deriving DecidableEq, Repr

/-- Result codes (R13). -/
inductive ResultCode where
  | done
  | taken
  | held
  | full
  | range
  | notHeld
  | refused
  | lastPath
  | unknown
deriving DecidableEq, Repr

/-- A reply: the echoed code and tag, the result and the reply fields (R13, R166). -/
structure Reply where
  code : Byte
  tag : Byte
  result : ResultCode
  fields : List Byte
deriving DecidableEq, Repr

/-- The nine report kinds, in the order of their bits (R13). -/
inductive ReportKind where
  | health
  | skew
  | line
  | ring
  | overrun
  | nearFull
  | clash
  | profile
  | bayClash
deriving DecidableEq, Repr

/-- A set of report kinds, bit k for the kind of that position (R13). -/
abbrev ReportSet := BitVec 9

/-- A frame on a tributary link toward the attached device (R12, R13). -/
inductive TribFrame where
  | delivery (r : DeliveryRecord)
  | reply (y : Reply)
  | report (kinds : ReportSet)
deriving DecidableEq, Repr

/-! ### The stream entry (chapters 2 to 4) -/

/-- Who holds a claim (R16). -/
inductive Holder where
  | trib (t : Trib)
  | mirror
deriving DecidableEq, Repr

/-- Publisher state (R16). -/
inductive PublisherState where
  | active
  | held
deriving DecidableEq, Repr

/-- The publisher of an entry with its state and its sequence counter (R16, R23). -/
structure Publisher where
  holder : Holder
  state : PublisherState
  seq : SeqNo
deriving DecidableEq, Repr

/-- A subscriber set: a subset of T0 to T3 and MIRROR (R16). -/
structure Members where
  tribs : Quad Bool
  mirror : Bool
deriving DecidableEq, Repr

/-- The window record (R40). An EMPTY window holds no front, no missing numbers and no stale run. The missing list
is ordered oldest first. -/
inductive Window where
  | empty
  | active (front : SeqNo) (missing : List SeqNo) (staleRun : Nat)
deriving DecidableEq, Repr

/-- A probe: the arrival whose other copy is awaited (R76). -/
structure Probe where
  seq : SeqNo
  line : Line
  time : Time
deriving DecidableEq, Repr

/-- The skew record (R76): `e8` is eight times the running average, `none` while unset. -/
structure Skew where
  e8 : Option Int
  probe : Option Probe
  alarm : Bool
deriving DecidableEq, Repr

/-- What a foreign entry with subscribers holds (R18): the supervision values P and M, the window, and the health
record with its live flags and silence timers (R62), and the skew record. A timer is `none` when stopped and the
due reading when it runs. -/
structure Supervision where
  p : Nat
  m : Nat
  window : Window
  health : Health
  live : Pair Bool
  silence : Pair (Option Time)
  skew : Skew
deriving DecidableEq, Repr

/-- The counters of an entry (R19). -/
structure EntryCounters where
  intakes : Counter
  accepted : Counter
  duplicate : Counter
  late : Counter
  stale : Counter
  lost : Counter
  resync : Counter
  arrivals : Pair Counter
deriving DecidableEq, Repr

/-- A stream entry (R16). -/
structure Entry where
  id : StreamId
  cls : StreamClass
  publisher : Option Publisher
  members : Members
  sup : Option Supervision
  counters : EntryCounters
deriving DecidableEq, Repr

/-! ### The tributary port (chapter 5) -/

/-- Link state of a tributary (R83). -/
inductive LinkState where
  | down
  | up
deriving DecidableEq, Repr

/-- The counters of a tributary port (R102). -/
structure PortCounters where
  good : Counter
  malformed : Counter
  intakes : Counter
  unclaimed : Counter
  clash : Counter
  overrun : Counter
  discarded : Counter
  delivered : Counter
  aborts : Counter
  linkLosses : Counter
  requestOverrun : Counter
deriving DecidableEq, Repr

/-- A tributary port (R83). `report` says whether the report slot holds a REPORT: its body is formed when the
transmitter takes it (R99). -/
structure Port where
  link : LinkState
  holdTimer : Option Time
  urgentQ : List DeliveryRecord
  normalQ : List DeliveryRecord
  requests : List Request
  reply : Option Reply
  report : Bool
  reports : ReportSet
  inFlight : Option TribFrame
  counters : PortCounters
deriving DecidableEq, Repr

/-! ### The line receiver (chapter 6) -/

/-- Receiver states (R104). -/
inductive ReceiverState where
  | off
  | search
  | locked
deriving DecidableEq, Repr

/-- The counters of a line receiver (R120). -/
structure ReceiverCounters where
  good : Counter
  checkFailures : Counter
  malformed : Counter
  tooLong : Counter
  unlockedDiscards : Counter
  lockAcquisitions : Counter
  lockLosses : Counter
  qualityRelocks : Counter
deriving DecidableEq, Repr

/-- A line receiver (R104). -/
structure Receiver where
  state : ReceiverState
  level : Nat
  dwellTimer : Option Time
  qualityTimer : Option Time
  qualityCount : Nat
  counters : ReceiverCounters
deriving DecidableEq, Repr

/-! ### The line egress (chapter 7) -/

/-- The six normal queues of an egress, which a service list may name (R121). -/
inductive NormalQueue where
  | fwd
  | loc (t : Trib)
  | own
deriving DecidableEq, Repr

/-- The seven queues of an egress (R121). -/
inductive QueueName where
  | urgent
  | normal (q : NormalQueue)
deriving DecidableEq, Repr

/-- One item for each of the seven queues. -/
structure PerQueue (α : Type) where
  urgent : α
  fwd : α
  loc : Quad α
  own : α
deriving DecidableEq, Repr

/-- A line egress (R121): the queues, the arbiter's credit and service-list pointer, the frame in flight with the
queue it came from, and the counters (R134). -/
structure Egress where
  queues : PerQueue (List RingFrame)
  credit : Nat
  position : Nat
  inFlight : Option (RingFrame × QueueName)
  sent : PerQueue Counter
  drops : PerQueue Counter
  lineDown : Counter
  aborts : Counter
deriving DecidableEq, Repr

/-! ### The ring unit (chapter 8) -/

/-- Ring states (R136); `opened` is the manual's OPEN. -/
inductive RingState where
  | unknown
  | closed
  | half
  | opened
deriving DecidableEq, Repr

/-- A record of an outstanding list (R143). -/
structure Outstanding where
  seq : SeqNo
  sendTime : Time
deriving DecidableEq, Repr

/-- Round trip and node count of a direction's last matched return (R145). -/
structure Measured where
  roundTrip : Time
  nodes : Nat
deriving DecidableEq, Repr

/-- One part of a roster record (R150). -/
structure RosterPart where
  hops : Nat
  heard : Time
  expiry : Time
  reported : RingState
deriving DecidableEq, Repr

/-- A roster record (R150). -/
structure RosterRecord where
  bay : Byte
  parts : Pair (Option RosterPart)
deriving DecidableEq, Repr

/-- The counters of the ring unit (R153). -/
structure RingCounters where
  returnedOwn : Counter
  lapExpired : Counter
  passed : Counter
  bayClash : Counter
  beaconRejects : Counter
  rosterFull : Counter
deriving DecidableEq, Repr

/-- The ring unit (R136). Items for a direction are kept under the line its beacons are sent on. The roster is in
ascending bay order. -/
structure RingUnit where
  beaconSeq : SeqNo
  beaconTimer : Option Time
  tally : Nat
  outstanding : Pair (List Outstanding)
  returnAge : Pair Nat
  lastReturn : Pair (Option Time)
  measured : Pair (Option Measured)
  state : RingState
  roster : List RosterRecord
  counters : RingCounters
deriving DecidableEq, Repr

/-! ### The contact mirror (chapter 9) -/

/-- One contact input: accepted state and run count (R155). -/
structure ContactInput where
  accepted : Bool
  run : Nat
deriving DecidableEq, Repr

/-- Loss policy of a binding (R160). -/
inductive Policy where
  | hold
  | safe
deriving DecidableEq, Repr

/-- A binding of a contact output (R160). -/
structure Binding where
  bay : Byte
  bit : Fin 8
  policy : Policy
  safeLevel : Bool
deriving DecidableEq, Repr

/-- A contact output: binding and level (R160). -/
structure ContactOutput where
  binding : Option Binding
  level : Bool
deriving DecidableEq, Repr

/-- The contact data of a source: States and Enable mask (R160). -/
structure ContactData where
  states : Byte
  mask : Byte
deriving DecidableEq, Repr

/-- A source record (R160). -/
structure Source where
  bay : Byte
  health : Health
  data : Option ContactData
deriving DecidableEq, Repr

/-- The counters of the contact mirror (R163). -/
structure MirrorCounters where
  acceptedChanges : Counter
  changeFrames : Counter
  refreshFrames : Counter
  requestFrames : Counter
deriving DecidableEq, Repr

/-- The contact mirror (R155, R156, R160). The source records are in ascending bay order. -/
structure Mirror where
  inputs : Oct ContactInput
  debounce : Nat
  sampleDue : Time
  publish : Bool
  enableMask : Byte
  maskValues : Byte
  refresh : Nat
  changeCounter : Byte
  changedSet : Byte
  refreshTimer : Option Time
  outputs : Oct ContactOutput
  sources : List Source
  counters : MirrorCounters
deriving DecidableEq, Repr

/-! ### The ring profile (chapter 10) -/

/-- The ring profile (R168). Times are in milliseconds, the skew limit in microseconds. -/
structure Profile where
  lapBudget : Nat
  beaconInterval : Nat
  claimHold : Nat
  serviceList : List NormalQueue
  urgentBurst : Nat
  floors : Pair Nat
  dwell : Nat
  qualityPeriod : Nat
  qualityThreshold : Nat
  skewLimit : Nat
deriving DecidableEq, Repr

end Sys2Proof.Machine
end

