-- ==== Sys2Proof/Machine/Initial.lean ====
section
/-! DEFINITION. The values of the records after power-on reset (R83, R104, R121, R136, R155, R156, R160, R168) and
of the records that a request makes (R18, R28). -/

namespace Sys2Proof.Machine

/-- A duration of `n` milliseconds, in microseconds of the time base. -/
def millis (n : Nat) : Time := BitVec.ofNat 32 (1000 * n)

/-- Whether an own bay is valid: 1 to 254 (R2). -/
def validBay (bay : Byte) : Bool := bay != 0#8 && bay != 255#8

/-- The lap budget that the LAPSEL straps select (R168). -/
def lapselBudget (lapsel : BitVec 2) : Nat :=
  match lapsel.toNat with
  | 0 => 8
  | 1 => 16
  | 2 => 32
  | _ => 63

/-- The service list after power-on reset (R121). -/
def defaultServiceList : List NormalQueue :=
  [.fwd, .loc .t0, .fwd, .loc .t1, .fwd, .loc .t2, .fwd, .loc .t3, .own]

/-- The profile after power-on reset (R168). -/
def Profile.initial (lapsel : BitVec 2) : Profile where
  lapBudget := lapselBudget lapsel
  beaconInterval := 10
  claimHold := 2000
  serviceList := defaultServiceList
  urgentBurst := 2
  floors := ⟨0, 0⟩
  dwell := 3
  qualityPeriod := 100
  qualityThreshold := 16
  skewLimit := 0

/-- The entry counters of a new entry (R19). -/
def EntryCounters.zero : EntryCounters := ⟨0, 0, 0, 0, 0, 0, 0, ⟨0, 0⟩⟩

/-- The skew record as it is made, and as the entry into LOST leaves it (R76, R81). -/
def Skew.unset : Skew := ⟨none, none, false⟩

/-- The records made with the first subscriber of a foreign entry (R18, R28). -/
def Supervision.initial (p m : Nat) : Supervision where
  p := p
  m := m
  window := .empty
  health := .waiting
  live := ⟨false, false⟩
  silence := ⟨none, none⟩
  skew := Skew.unset

/-- The empty subscriber set. -/
def Members.empty : Members := ⟨⟨false, false, false, false⟩, false⟩

/-- The counters of a port after power-on reset (R102). -/
def PortCounters.zero : PortCounters := ⟨0, 0, 0, 0, 0, 0, 0, 0, 0, 0, 0⟩

/-- A tributary port after power-on reset (R83). -/
def Port.initial : Port where
  link := .down
  holdTimer := none
  urgentQ := []
  normalQ := []
  requests := []
  reply := none
  report := false
  reports := 0
  inFlight := none
  counters := PortCounters.zero

/-- A line receiver after power-on reset, with a valid or an invalid own bay (R104, R114). -/
def Receiver.initial (valid : Bool) : Receiver where
  state := if valid then .search else .off
  level := 0
  dwellTimer := if valid then some (millis 3) else none
  qualityTimer := none
  qualityCount := 0
  counters := ⟨0, 0, 0, 0, 0, 0, 0, 0⟩

/-- A line egress after power-on reset (R121, R134). -/
def Egress.initial : Egress where
  queues := ⟨[], [], ⟨[], [], [], []⟩, []⟩
  credit := 2
  position := 0
  inFlight := none
  sent := ⟨0, 0, ⟨0, 0, 0, 0⟩, 0⟩
  drops := ⟨0, 0, ⟨0, 0, 0, 0⟩, 0⟩
  lineDown := 0
  aborts := 0

/-- The ring unit after power-on reset, with a valid or an invalid own bay (R136, R141). -/
def RingUnit.initial (valid : Bool) : RingUnit where
  beaconSeq := 0
  beaconTimer := if valid then some (millis 10) else none
  tally := 0
  outstanding := ⟨[], []⟩
  returnAge := ⟨3, 3⟩
  lastReturn := ⟨none, none⟩
  measured := ⟨none, none⟩
  state := .unknown
  roster := []
  counters := ⟨0, 0, 0, 0, 0, 0⟩

/-- The contact mirror after power-on reset: each accepted state takes the level of the first sample (R155), and the
settings, outputs and counters have their reset values (R156, R160, R163). -/
def Mirror.initial (levels : Byte) : Mirror where
  inputs := Oct.ofFn fun i => ⟨levels.getLsbD i.val, 0⟩
  debounce := 4
  sampleDue := 250
  publish := false
  enableMask := 255
  maskValues := 0
  refresh := 100
  changeCounter := 0
  changedSet := 0
  refreshTimer := none
  outputs := Oct.ofFn fun _ => ⟨none, false⟩
  sources := []
  counters := ⟨0, 0, 0, 0⟩

end Sys2Proof.Machine
end

