-- ==== Sys2Proof/Machine/Arbiter.lean ====
section
/-! DEFINITION. One line egress: enqueue (R123), the transmit arbiter (R125 to R127), the frame in flight (R129), the
departures of the line from LOCKED (R130, R132) and the effects of SETUP (R128). -/

namespace Sys2Proof.Machine

/-- The item of one queue. -/
def PerQueue.get {α : Type} (p : PerQueue α) : QueueName → α
  | .urgent => p.urgent
  | .normal .fwd => p.fwd
  | .normal (.loc t) => p.loc.get t
  | .normal .own => p.own

/-- The items with that of one queue replaced. -/
def PerQueue.set {α : Type} (p : PerQueue α) (q : QueueName) (x : α) : PerQueue α :=
  match q with
  | .urgent => { p with urgent := x }
  | .normal .fwd => { p with fwd := x }
  | .normal (.loc t) => { p with loc := p.loc.set t x }
  | .normal .own => { p with own := x }

/-- The items in the order of R121: urgent, FWD, LOC0 to LOC3, OWN. -/
def PerQueue.toList {α : Type} (p : PerQueue α) : List α :=
  [p.urgent, p.fwd, p.loc.t0, p.loc.t1, p.loc.t2, p.loc.t3, p.own]

/-- The capacity of a queue (R121, R122). -/
def QueueName.capacity : QueueName → Nat
  | .urgent => 16
  | .normal .fwd => 32
  | .normal (.loc _) => 8
  | .normal .own => 4

/-- No frame in any queue. -/
def noFrames : PerQueue (List RingFrame) := ⟨[], [], ⟨[], [], [], []⟩, []⟩

/-- How many frames the seven queues hold. -/
def Egress.queued (e : Egress) : Nat := (e.queues.toList.map List.length).sum

/-- Whether some normal queue holds a frame (R126). -/
def Egress.normalWaiting (e : Egress) : Bool :=
  e.queues.toList.tail.any fun q => !q.isEmpty

/-- The positions of a service list of `n` positions in the order a normal choice visits them (R127). -/
def visitOrder (n position : Nat) : List Nat := (List.range n).map fun k => (position + k) % n

/-- The first position visited whose named queue holds a frame, with that queue (R127). -/
def Egress.scan (list : List NormalQueue) (e : Egress) : Option (Nat × NormalQueue) :=
  (visitOrder list.length e.position).findSome? fun i =>
    match list[i]? with
    | some q => if (e.queues.get (.normal q)).isEmpty then none else some (i, q)
    | none => none

/-- The head frame of a queue taken from it and put in flight (R125). -/
def Egress.take (q : QueueName) (e : Egress) : Egress :=
  match e.queues.get q with
  | f :: rest => { e with queues := e.queues.set q rest, inFlight := some (f, q) }
  | [] => e

/-- An urgent choice (R126): the credit decreases by 1 and stays at 0. -/
def Egress.urgentChoice (e : Egress) : Egress := { e.take .urgent with credit := e.credit - 1 }

/-- A normal choice (R127): the pointer moves past the position served and the credit is refilled to U. -/
def Egress.normalChoice (list : List NormalQueue) (burst : Nat) (e : Egress) : Egress :=
  match e.scan list with
  | some (i, q) => { e.take (.normal q) with position := (i + 1) % list.length, credit := burst }
  | none => e

/-- The arbiter's choice, made when the egress is open, nothing is in flight and a queue holds a frame (R125, R126). -/
def Egress.choose (isOpen : Bool) (list : List NormalQueue) (burst : Nat) (e : Egress) : Egress :=
  if isOpen ∧ e.inFlight = none then
    if e.queues.urgent ≠ [] ∧ (0 < e.credit ∨ e.normalWaiting = false) then e.urgentChoice
    else e.normalChoice list burst
  else e

/-- What becomes of an offered frame (R123). -/
inductive Offered where
  | lineDown
  | queueFull
  | placed
deriving DecidableEq, Repr

/-- The outcome of an offer, tested in the order of R123. -/
def Egress.judge (isOpen : Bool) (q : QueueName) (e : Egress) : Offered :=
  if isOpen = false then .lineDown
  else if q.capacity ≤ (e.queues.get q).length then .queueFull
  else .placed

/-- A frame offered to a queue (R123); a placement into an egress whose transmitter is free causes a choice at once, and
the frame it takes is in flight and stands in no queue (R125). R124 and R140 say of a departure that falls together with
an enqueue that the frame is flushed; that this means a frame that stands in a queue, at a departure for SEARCH and at
one for OFF, is the model's reading (DEDUCED, log 18). -/
def Egress.offer (isOpen : Bool) (list : List NormalQueue) (burst : Nat) (q : QueueName) (f : RingFrame)
    (e : Egress) : Egress :=
  match e.judge isOpen q with
  | .lineDown => { e with lineDown := e.lineDown + 1 }
  | .queueFull => { e with drops := e.drops.set q (e.drops.get q + 1) }
  | .placed =>
    ({ e with queues := e.queues.set q (e.queues.get q ++ [f]) }).choose isOpen list burst

/-- The end-of-transmission event of the frame in flight (R129): it is counted as sent from its queue, and an open
egress chooses again. -/
def Egress.endOfTransmission (isOpen : Bool) (list : List NormalQueue) (burst : Nat) (e : Egress) : Egress :=
  match e.inFlight with
  | some (_, q) =>
    ({ e with inFlight := none, sent := e.sent.set q (e.sent.get q + 1) }).choose isOpen list burst
  | none => e

/-- All seven queues flushed, each frame counted as a line-down drop, and the credit set to U (R130, R132). -/
def Egress.flush (burst : Nat) (e : Egress) : Egress :=
  { e with queues := noFrames, credit := burst, lineDown := e.lineDown + BitVec.ofNat 16 e.queued }

/-- The departure of the line from LOCKED for SEARCH (R130): the frame in flight is aborted and the queues flushed. A
frame that a free transmitter took at its placement is in flight, and counts as an abort and not as a line-down drop,
which R124 and R140 could be read to ask (DEDUCED, log 18). -/
def Egress.abort (burst : Nat) (e : Egress) : Egress :=
  { e.flush burst with
    inFlight := none
    aborts := if e.inFlight.isSome then e.aborts + 1 else e.aborts }

/-- The effects of a SETUP's service list and urgent burst, where present (R128). -/
def Egress.setup (newList : Bool) (newBurst : Option Nat) (e : Egress) : Egress :=
  { e with
    position := if newList then 0 else e.position
    credit := match newBurst with
      | some u => min e.credit u
      | none => e.credit }

end Sys2Proof.Machine
end

