-- ==== Sys2Proof/Machine/Flags.lean ====
section
/-! DEFINITION. The pending report set as a set of flags (R13, R171, R172). -/

namespace Sys2Proof.Machine

/-- The bit of a report kind (R13). -/
def ReportKind.bit : ReportKind → Nat
  | .health => 0
  | .skew => 1
  | .line => 2
  | .ring => 3
  | .overrun => 4
  | .nearFull => 5
  | .clash => 6
  | .profile => 7
  | .bayClash => 8

/-- Whether a kind is pending. -/
def ReportSet.has (s : ReportSet) (k : ReportKind) : Bool := s.getLsbD k.bit

/-- The set with a kind added (R171). -/
def ReportSet.add (s : ReportSet) (k : ReportKind) : ReportSet := s ||| BitVec.twoPow 9 k.bit

/-- The set without the kinds whose bit is set in a CLEAR's field; bits 9 to 15 are ignored (R172). -/
def ReportSet.clear (s : ReportSet) (kinds : BitVec 16) : ReportSet := s &&& ~~~ (kinds.setWidth 9)

end Sys2Proof.Machine
end

