-- ==== Sys2Proof/Machine/Delivery.lean ====
section
/-! DEFINITION. One tributary port: its transmitter's choice (R98, R99), the raising of a report kind (R171), the
placement of delivery records (R86, R94 to R97), the request buffer (R164), the loss of its link (R85) and the
teardown's effect on it (R100). -/

namespace Sys2Proof.Machine

/-- Whether the transmitter is free: the link is UP and no frame is in flight (R98). -/
def Port.free (p : Port) : Bool := p.link == .up && p.inFlight == none

/-- The transmitter's choice (R98, R99): when it is free and a source holds something, the first of the urgent queue,
the reply slot, the report slot and the normal queue gives its item, which is then in flight. A REPORT carries the
pending set as it stands. -/
def Port.choose (p : Port) : Port :=
  if p.free then
    match p.urgentQ with
    | r :: rest => { p with urgentQ := rest, inFlight := some (.delivery r) }
    | [] =>
      match p.reply with
      | some y => { p with reply := none, inFlight := some (.reply y) }
      | none =>
        if p.report then { p with report := false, inFlight := some (.report p.reports) }
        else match p.normalQ with
          | r :: rest => { p with normalQ := rest, inFlight := some (.delivery r) }
          | [] => p
  else p

/-- A raising of a report kind (R171, R86): nothing on a DOWN link or when the kind is pending; otherwise the kind is
added and the report slot holds a REPORT, which a free transmitter may take at once (R98). -/
def Port.raise (k : ReportKind) (p : Port) : Port :=
  if p.link = .up ∧ p.reports.has k = false then
    ({ p with reports := p.reports.add k, report := true }).choose
  else p

/-- A record offered to a DOWN tributary is discarded and counted (R86). -/
def Port.discard (p : Port) : Port :=
  { p with counters := { p.counters with discarded := p.counters.discarded + 1 } }

/-- The overrun counter advances and OVERRUN is raised (R95, R97). -/
def Port.overrun (p : Port) : Port :=
  ({ p with counters := { p.counters with overrun := p.counters.overrun + 1 } }).raise .overrun

/-- A record placed at the tail of the urgent queue (R95). A free transmitter takes it at once (R98), and it is then in
flight and in no queue; that a link loss or a DETACH right after does not find it in the queue, as R93 and R101 say of a
placed record, is the model's reading (DEDUCED, log 19). -/
def Port.placeUrgent (r : DeliveryRecord) (p : Port) : Port :=
  ({ p with urgentQ := p.urgentQ ++ [r] }).choose

/-- A record placed at the tail of the normal queue; the placement that brings it from 23 records to 24 raises
NEAR_FULL (R95, R96). A free transmitter takes it at once (R98), and it is then in flight and in no queue; that a link
loss or a DETACH right after does not find it in the queue, as R93 and R101 say of a placed record, is the model's
reading (DEDUCED, log 19). -/
def Port.placeNormal (r : DeliveryRecord) (p : Port) : Port :=
  let placed := ({ p with normalQ := p.normalQ ++ [r] }).choose
  if p.normalQ.length + 1 = Config.nearFullCount then placed.raise .nearFull else placed

/-- A DATA record offered to the port; `urgent` says that its frame class is URGENT (R86, R95, R96). One placed with
the transmitter free and every source empty is in flight at once (R98); that a link loss or a DETACH right after treats
it so, and not as the queued record of R93 and R101, is the model's reading (DEDUCED, log 19). -/
def Port.offerData (urgent : Bool) (r : DeliveryRecord) (p : Port) : Port :=
  if p.link = .down then p.discard
  else if urgent then
    if p.urgentQ.length < Config.urgentDeliveryCapacity then p.placeUrgent r else p.overrun
  else
    if p.normalQ.length < Config.normalDeliveryCapacity then p.placeNormal r else p.overrun

/-- The normal queue with a place made for a notice: the oldest DATA record is removed from wherever it stands, or
the head when the queue holds no DATA record (R97). -/
def displace (q : List DeliveryRecord) : List DeliveryRecord :=
  if q.any (fun r => r.kind == .data) then q.eraseP (fun r => r.kind == .data) else q.tail

/-- A notice offered to the port (R86, R96, R97). One placed with the transmitter free and every source empty is in
flight at once (R98), and a DETACH right after leaves it so, where R101 says that it is emptied (DEDUCED, log 19). -/
def Port.offerNotice (r : DeliveryRecord) (p : Port) : Port :=
  if p.link = .down then p.discard
  else if p.normalQ.length < Config.normalDeliveryCapacity then p.placeNormal r
  else ({ p with normalQ := displace p.normalQ ++ [r] }).choose.overrun

/-- A good REQUEST offered to the request buffer (R164). -/
def Port.bufferRequest (r : Request) (p : Port) : Port :=
  if p.requests.length < Config.requestBufferCapacity then { p with requests := p.requests ++ [r] }
  else { p with counters := { p.counters with requestOverrun := p.counters.requestOverrun + 1 } }

/-- A reply placed in the reply slot (R165), which a free transmitter may take at once (R98); a link loss right after
then loses it as the frame in flight, where R165 says that it is emptied from the slot (DEDUCED, log 19). -/
def Port.placeReply (y : Reply) (p : Port) : Port := ({ p with reply := some y }).choose

/-- The head request taken from the buffer (R165). -/
def Port.takeRequest (p : Port) : Port := { p with requests := p.requests.tail }

/-- Both delivery queues emptied, each record removed counted as discarded (R85, R100). A record that a free transmitter
took at its placement is in flight and not among them (DEDUCED, log 19). -/
def Port.emptyQueues (p : Port) : Port :=
  { p with
    urgentQ := []
    normalQ := []
    counters := { p.counters with
      discarded := p.counters.discarded + BitVec.ofNat 16 (p.urgentQ.length + p.normalQ.length) } }

/-- The port's part of the "lost" event while UP (R85, R87). The claim-hold timer is started with the stream table's
part of the event (R35). A frame in flight counts as an abort also when the transmitter took it at the placement just
before (where R93 and R165 speak of a queue and a slot, DEDUCED, log 19) or at the end of transmission just before
(where R87 says that the event finds the transmitter free, DEDUCED, log 20). -/
def Port.linkLost (p : Port) : Port :=
  let q := p.emptyQueues
  { q with
    link := .down
    requests := []
    reply := none
    report := false
    reports := 0
    inFlight := none
    counters := { q.counters with
      aborts := if p.inFlight.isSome then q.counters.aborts + 1 else q.counters.aborts
      linkLosses := q.counters.linkLosses + 1 } }

/-- The port's part of the "present" event while DOWN (R84). -/
def Port.linkPresent (p : Port) : Port := ({ p with link := .up, holdTimer := none }).choose

/-- The end-of-transmission event of the frame in flight (R87): a DELIVERY frame is counted as delivered, and the free
transmitter chooses again in the same event (R98). R87 says that a "lost" event right after finds the transmitter free;
that it does so only when no source held anything is the model's reading (DEDUCED, log 20). -/
def Port.endOfTransmission (p : Port) : Port :=
  match p.inFlight with
  | some (.delivery _) =>
    ({ p with inFlight := none, counters := { p.counters with delivered := p.counters.delivered + 1 } }).choose
  | some _ => ({ p with inFlight := none }).choose
  | none => p

/-- A CLEAR (R172): the named kinds leave the pending set, and the report slot is emptied when the set is left
empty. -/
def Port.clearReports (kinds : BitVec 16) (p : Port) : Port :=
  { p with
    reports := p.reports.clear kinds
    report := if p.reports.clear kinds = 0 then false else p.report }

/-- The level of the ALERTn pin: asserted while the link is UP and the pending set is non-empty (R83). -/
def Port.alert (p : Port) : Bool := p.link == .up && p.reports != 0

end Sys2Proof.Machine
end

