-- ==== Sys2Proof/Machine/State.lean ====
section
/-! DEFINITION. The state of the part, the reasons a step can stop, and the state right after reset. -/

namespace Sys2Proof.Machine

/-- The faults. The manual names no event at which the part stops, so there is none: safe, since no meaning answers
a fault. -/
inductive Fault where
deriving DecidableEq, Repr

/-- The refusals. -/
inductive Refusal where
  /-- Raised by `exec` alone, for a command that has no meaning yet. Safe: the model stops. No arm raises it. -/
  | notModelled (mnemonic : String)
deriving DecidableEq, Repr

/-- The whole state of the part: every item the manual gives a block, and three fields of the model's own
(`pending`, `inPins` and `freeCount`; logs 4, 12 and 10). -/
structure State where
  /-- MODEL: the commands that wait, first in first out. -/
  pending : List Instr
  /-- MODEL: the levels last seen at IN0 to IN7. -/
  inPins : Byte
  /-- MODEL: how many free values have been used. -/
  freeCount : Nat
  /-- The own bay, sampled from the BAY straps (R2). -/
  ownBay : Byte
  /-- The reading of the time base (R7). -/
  timeBase : Time
  /-- The ring profile (R168). -/
  profile : Profile
  /-- The rotation pointer of the request unit (R165). -/
  pointer : Trib
  /-- The stream table (R16), in ascending order of identifier. -/
  table : List Entry
  /-- The tributary ports (R83). -/
  ports : Quad Port
  /-- The line receivers (R104). -/
  receivers : Pair Receiver
  /-- The line egresses (R121). -/
  egresses : Pair Egress
  /-- The ring unit (R136). -/
  ring : RingUnit
  /-- The contact mirror (R155, R156, R160). -/
  mirror : Mirror
deriving DecidableEq, Repr

/-- The part right after a power-on reset with these BAY straps, LAPSEL straps and levels at the inputs, and nothing
waiting (R2, R7, R16, R83, R104, R121, R136, R155, R156, R160, R165, R168). -/
def State.powerOn (bay : Byte) (lapsel : BitVec 2) (inputs : Byte) : State where
  pending := []
  inPins := inputs
  freeCount := 0
  ownBay := bay
  timeBase := 0
  profile := Profile.initial lapsel
  pointer := .t0
  table := []
  ports := Quad.ofFn fun _ => Port.initial
  receivers := ⟨Receiver.initial (validBay bay), Receiver.initial (validBay bay)⟩
  egresses := ⟨Egress.initial, Egress.initial⟩
  ring := RingUnit.initial (validBay bay)
  mirror := Mirror.initial inputs

/-- The state after reset. The straps and the input levels are inputs from outside: bay 12, LAPSEL 1 and all inputs
low are the model's choice (DESIGN CHOICE, log 1). Everything else is as the manual states it. -/
def State.reset : State := State.powerOn 12 1 0

end Sys2Proof.Machine
end

