-- ==== Sys2Proof/Machine/Filter.lean ====
section
/-! DEFINITION. The duplicate filter: the distance between sequence numbers (R6), the verdict on an offered arrival
and the change of the window (R44 to R50), and the counters of the entry (R56). -/

namespace Sys2Proof.Machine

/-- The forward distance from `x` to `y` (R6). -/
def seqDistance (x y : SeqNo) : Nat := (y - x).toNat

/-- The verdicts (R44, R45). An ahead verdict carries its gap, d - 1. -/
inductive Verdict where
  | activation
  | ahead (gap : Nat)
  | duplicate
  | late
  | stale
  | resync
deriving DecidableEq, Repr

/-- Whether a verdict delivers the arrival (R45, R52). -/
def Verdict.delivers : Verdict → Bool
  | .activation | .ahead _ | .late | .resync => true
  | .duplicate | .stale => false

/-- A verdict, the window as it leaves it, and how many numbers it counts lost. -/
structure Judged where
  verdict : Verdict
  window : Window
  lost : Nat
deriving DecidableEq, Repr

/-- The numbers of the missing list that an ahead verdict for `s` keeps: those behind `s` by less than 32 (R46). -/
def keptMissing (s : SeqNo) (missing : List SeqNo) : List SeqNo :=
  missing.filter fun n => seqDistance n s < 32

/-- Of the `d - 1` numbers an ahead verdict skips, those not dropped at once, oldest first (R46). -/
def newMissing (s : SeqNo) (d : Nat) : List SeqNo :=
  (List.range (min (d - 1) 31)).map fun j => s - BitVec.ofNat 16 (min (d - 1) 31 - j)

/-- The verdict on an arrival of sequence `s` and the change of the window (R44, R45). -/
def Window.judge (w : Window) (s : SeqNo) : Judged :=
  match w with
  | .empty => ⟨.activation, .active s [] 0, 0⟩
  | .active front missing run =>
    let d := seqDistance front s
    if d = 0 then ⟨.duplicate, .active front missing 0, 0⟩
    else if d ≤ 32767 then
      ⟨.ahead (d - 1), .active s (keptMissing s missing ++ newMissing s d) 0,
        (missing.length - (keptMissing s missing).length) + (d - 32)⟩
    else if 65536 - d ≤ 31 then
      if s ∈ missing then ⟨.late, .active front (missing.erase s) 0, 0⟩
      else ⟨.duplicate, .active front missing 0, 0⟩
    else if run < 3 then ⟨.stale, .active front missing (run + 1), 0⟩
    else ⟨.resync, .active s [] 0, 0⟩

/-- The window counters after a verdict (R56). -/
def EntryCounters.count (c : EntryCounters) (v : Verdict) (lost : Nat) : EntryCounters :=
  match v with
  | .activation => { c with accepted := c.accepted + 1 }
  | .ahead _ => { c with accepted := c.accepted + 1, lost := c.lost + BitVec.ofNat 16 lost }
  | .duplicate => { c with duplicate := c.duplicate + 1 }
  | .late => { c with accepted := c.accepted + 1, late := c.late + 1 }
  | .stale => { c with stale := c.stale + 1 }
  | .resync => { c with accepted := c.accepted + 1, resync := c.resync + 1 }

/-- The arrival counter of the arrival's line advanced (R65). -/
def EntryCounters.arrive (c : EntryCounters) (x : Line) : EntryCounters :=
  { c with arrivals := c.arrivals.set x (c.arrivals.get x + 1) }

end Sys2Proof.Machine
end

