-- ==== Sys2Proof/Machine/Supervisor.lean ====
section
/-! DEFINITION. The path supervisor's work on one entry: liveness and health at an arrival (R65 to R67) and at an
expiry (R68, R69), skew (R77 to R81) and tightening (R30). -/

namespace Sys2Proof.Machine

/-- The health that the live flags give a stream that has been heard (R63). -/
def healthOf (live : Pair Bool) : Health :=
  match live.a, live.b with
  | true, true => .dual
  | true, false => .singleA
  | false, true => .singleB
  | false, false => .lost

/-- The due reading of a silence timer started at `t` (R64). -/
def Supervision.due (sup : Supervision) (t : Time) : Time := t + BitVec.ofNat 32 (sup.p * sup.m)

/-- Timer X restarted at `t` (R65). -/
def Supervision.restart (x : Line) (t : Time) (sup : Supervision) : Supervision :=
  { sup with silence := sup.silence.set x (some (sup.due t)) }

/-- The recovery of line X (R67). -/
def Supervision.recover (x : Line) (t : Time) (sup : Supervision) : Supervision :=
  { sup.restart x t with live := sup.live.set x true, health := .dual }

/-- The first arrival of a WAITING or LOST stream (R66). -/
def Supervision.firstArrival (t : Time) (sup : Supervision) : Supervision :=
  { sup with live := ⟨true, true⟩, silence := ⟨some (sup.due t), some (sup.due t)⟩, health := .dual }

/-- What an arrival on line X at `t` does to the health record, by the health before it (R65). -/
def Supervision.hear (x : Line) (t : Time) (sup : Supervision) : Supervision :=
  match sup.health, x with
  | .waiting, _ => sup.firstArrival t
  | .lost, _ => sup.firstArrival t
  | .dual, _ => sup.restart x t
  | .singleA, .a => sup.restart x t
  | .singleB, .b => sup.restart x t
  | .singleA, .b => sup.recover x t
  | .singleB, .a => sup.recover x t

/-- A sample clamped to -16,383 … +16,383 µs (R78). -/
def clampSample (i : Int) : Int := max (-16383) (min 16383 i)

/-- The skew sample of a duplicate at `now` against a probe on the other line: the time of the line-B copy less that
of the line-A copy, modulo 2^32 and read as signed, then clamped (R78). -/
def Probe.sample (pr : Probe) (now : Time) : Int :=
  match pr.line with
  | .a => clampSample (now - pr.time).toInt
  | .b => clampSample (pr.time - now).toInt

/-- A sample entered into the accumulator (R79); the division by 8 rounds toward minus infinity. -/
def accumulate (e8 : Option Int) (s : Int) : Int :=
  match e8 with
  | none => 8 * s
  | some e => e - e / 8 + s

/-- The reported skew: E8 / 8 rounded toward zero (R79). -/
def reportedSkew (e : Int) : Int := e.tdiv 8

/-- The alarm as an evaluation against the skew limit leaves it (R80). -/
def alarmOf (limit : Nat) : Option Int → Bool
  | none => false
  | some e => limit != 0 && decide (limit < (reportedSkew e).natAbs)

/-- The skew record with its alarm evaluated (R80). -/
def Skew.evaluate (limit : Nat) (sk : Skew) : Skew := { sk with alarm := alarmOf limit sk.e8 }

/-- What an arrival does to the skew record, by its verdict (R77, R78). -/
def Skew.arrive (limit : Nat) (v : Verdict) (s : SeqNo) (x : Line) (now : Time) (sk : Skew) : Skew :=
  match v with
  | .activation | .ahead _ | .resync => { sk with probe := some ⟨s, x, now⟩ }
  | .duplicate =>
    match sk.probe with
    | some pr =>
      if pr.seq = s ∧ pr.line ≠ x then
        ({ sk with e8 := some (accumulate sk.e8 (pr.sample now)), probe := none }).evaluate limit
      else sk
    | none => sk
  | .late | .stale => sk

/-- The whole of an arrival's work on the records of an entry (R43, R54): verdict, window, liveness, skew. -/
def Supervision.arrive (limit : Nat) (s : SeqNo) (x : Line) (now : Time) (sup : Supervision) : Supervision :=
  { sup.hear x now with
    window := (sup.window.judge s).window
    skew := sup.skew.arrive limit (sup.window.judge s).verdict s x now }

/-- The expiry of silence timer X (R68), with the entry into LOST where both live flags are then false (R69, R81). -/
def Supervision.expire (x : Line) (sup : Supervision) : Supervision :=
  let live := sup.live.set x false
  if healthOf live = .lost then
    { sup with live := live, silence := ⟨none, none⟩, health := .lost, window := .empty, skew := Skew.unset }
  else
    { sup with live := live, silence := sup.silence.set x none, health := healthOf live }

/-- The supervision values tightened by P and M: replaced when the product is strictly less (R30). -/
def Supervision.tighten (p m : Nat) (sup : Supervision) : Supervision :=
  if p * m < sup.p * sup.m then { sup with p := p, m := m } else sup

end Sys2Proof.Machine
end

