-- ==== Sys2Proof/Machine/Table.lean ====
section
/-! DEFINITION. The stream table: finding, making and freeing entries (R16, R18, R20, R21, R28), subscriber sets, and
the release and leave that a teardown performs (R24, R31, R38). The table is kept in ascending order of identifier. -/

namespace Sys2Proof.Machine

/-- The place of an identifier in the ascending order of identifiers. -/
def StreamId.key (id : StreamId) : Nat := 256 * id.bay.toNat + id.index.toNat

/-- The entry with an identifier (R1). -/
def findEntry (id : StreamId) (table : List Entry) : Option Entry := table.find? fun e => e.id = id

/-- A new entry placed in the table. -/
def insertEntry (e : Entry) (table : List Entry) : List Entry :=
  table.orderedInsert (fun x y => x.id.key ≤ y.id.key) e

/-- The entry with an identifier changed, or freed where `f` answers `none`. -/
def changeEntry (id : StreamId) (f : Entry → Option Entry) (table : List Entry) : List Entry :=
  table.filterMap fun e => if e.id = id then f e else some e

/-- Free slots of the table (R20). -/
def freeSlots (table : List Entry) : Nat := Config.tableSlots - table.length

/-- Whether a subscriber set holds a member. -/
def Members.has (m : Members) : Holder → Bool
  | .trib t => m.tribs.get t
  | .mirror => m.mirror

/-- A subscriber set with one place set or cleared. -/
def Members.put (m : Members) (h : Holder) (b : Bool) : Members :=
  match h with
  | .trib t => { m with tribs := m.tribs.set t b }
  | .mirror => { m with mirror := b }

/-- Whether an entry's publisher is a given holder. -/
def Entry.publishedBy (e : Entry) (h : Holder) : Bool := (e.publisher.map fun p => p.holder) == some h

/-- What is left of an entry after a holder has gone (R18, R21): nothing with no publisher and no subscriber;
otherwise the entry, without the records of its supervision when no subscriber is left. -/
def Entry.settle (e : Entry) : Option Entry :=
  if e.members = Members.empty then
    if e.publisher = none then none else some { e with sup := none }
  else some e

/-- An entry with a member removed (R31). -/
def Entry.leave (h : Holder) (e : Entry) : Option Entry :=
  ({ e with members := e.members.put h false }).settle

/-- An entry with its publisher removed (R24). -/
def Entry.unpublish (e : Entry) : Option Entry := ({ e with publisher := none }).settle

/-- An entry after the teardown of Tn (R38): Tn's claim released and its membership removed. -/
def Entry.teardown (t : Trib) (e : Entry) : Option Entry :=
  if e.publishedBy (.trib t) ∨ e.members.has (.trib t) then
    ({ e with
        publisher := if e.publishedBy (.trib t) then none else e.publisher
        members := e.members.put (.trib t) false }).settle
  else some e

/-- An entry with Tn's claim put in a publisher state (R35, R37). -/
def Entry.setPublisherState (t : Trib) (st : PublisherState) (e : Entry) : Entry :=
  if e.publishedBy (.trib t) then { e with publisher := e.publisher.map fun p => { p with state := st } } else e

/-- The entry a request makes for an identifier (R22, R27, R28, R33). -/
def Entry.make (id : StreamId) (cls : StreamClass) (publisher : Option Publisher) (members : Members)
    (sup : Option Supervision) : Entry :=
  ⟨id, cls, publisher, members, sup, EntryCounters.zero⟩

/-- A member added to the entry of an identifier, or the entry made with it (R27 to R30). A foreign entry keeps
supervision values, tightened by P and M. -/
def joinTable (own : Bool) (id : StreamId) (h : Holder) (p m : Nat) (table : List Entry) : List Entry :=
  match findEntry id table with
  | some _ =>
    changeEntry id
      (fun e => some { e with members := e.members.put h true, sup := e.sup.map (Supervision.tighten p m) }) table
  | none =>
    insertEntry
      (Entry.make id .general none (Members.empty.put h true)
        (if own then none else some (Supervision.initial p m)))
      table

/-- A member removed from the entry of an identifier (R31). -/
def leaveTable (id : StreamId) (h : Holder) (table : List Entry) : List Entry :=
  changeEntry id (Entry.leave h) table

end Sys2Proof.Machine
end

