-- ==== Sys2Proof/Machine/Ops.lean ====
section
/-! DEFINITION. The named operations over the whole state that the meanings share: time and timers (R7), the raising
of reports (R171), offers to the line egresses (R123), and the reach into ports, receivers and egresses. -/

namespace Sys2Proof.Machine

/-- The outcomes of a step of this part. -/
abbrev Outcome := Host.Outcome State Fault Refusal

/-! ### Time (R7) -/

/-- Whether the time base has reached a due reading: the signed difference is not negative (R7). -/
def reached (now due : Time) : Bool := decide ((now - due).toNat < 2 ^ 31)

/-- The state when a timer due at this reading expires: the time base reads the due reading, unless it has passed it
already (log 4). -/
def State.advanceTo (due : Time) (s : State) : State :=
  if reached s.timeBase due then s else { s with timeBase := due }

/-- The due reading of a timer started now for `n` milliseconds. -/
def State.dueIn (s : State) (n : Nat) : Time := s.timeBase + millis n

/-! ### Ports and reports -/

/-- One port changed. -/
def State.changePort (t : Trib) (f : Port → Port) (s : State) : State :=
  { s with ports := s.ports.set t (f (s.ports.get t)) }

/-- Every port changed, each by its own function. -/
def State.changePorts (f : Trib → Port → Port) (s : State) : State :=
  { s with ports := Quad.ofFn fun t => f t (s.ports.get t) }

/-- A kind raised to every tributary whose link is UP (R119, R144, R148, R171). -/
def State.raiseAll (k : ReportKind) (s : State) : State := s.changePorts fun _ p => p.raise k

/-- A kind raised to the tributaries of a subscriber set (R74, R80). -/
def State.raiseMembers (k : ReportKind) (m : Members) (s : State) : State :=
  s.changePorts fun t p => if m.tribs.get t then p.raise k else p

/-- PROFILE raised to every UP tributary but the requester (R168, R169). -/
def State.raiseProfile (requester : Trib) (s : State) : State :=
  s.changePorts fun t p => if t = requester then p else p.raise .profile

/-- A DATA record offered to each tributary of a subscriber set (R53, R92). -/
def State.offerDataTo (m : Members) (urgent : Bool) (r : DeliveryRecord) (s : State) : State :=
  s.changePorts fun t p => if m.tribs.get t then p.offerData urgent r else p

/-- A notice offered to each tributary of a subscriber set (R73). -/
def State.offerNoticeTo (m : Members) (r : DeliveryRecord) (s : State) : State :=
  s.changePorts fun t p => if m.tribs.get t then p.offerNotice r else p

/-- The level of the ALERTn pin (R83). -/
def State.alert (s : State) (t : Trib) : Bool := (s.ports.get t).alert

/-! ### Lines -/

/-- Whether the egress of a line is open: its receiver is LOCKED (R121). -/
def State.isOpen (s : State) (l : Line) : Bool := (s.receivers.get l).state == .locked

/-- One receiver changed. -/
def State.changeReceiver (l : Line) (f : Receiver → Receiver) (s : State) : State :=
  { s with receivers := s.receivers.set l (f (s.receivers.get l)) }

/-- One egress changed. -/
def State.changeEgress (l : Line) (f : Egress → Egress) (s : State) : State :=
  { s with egresses := s.egresses.set l (f (s.egresses.get l)) }

/-- A frame offered to a queue of a line's egress (R123). -/
def State.offerLine (l : Line) (q : QueueName) (f : RingFrame) (s : State) : State :=
  s.changeEgress l (Egress.offer (s.isOpen l) s.profile.serviceList s.profile.urgentBurst q f)

/-- Whether a line's egress would place a frame offered to a queue now (R123). -/
def State.wouldPlace (s : State) (l : Line) (q : QueueName) : Bool :=
  (s.egresses.get l).judge (s.isOpen l) q == .placed

/-- The two copies of a frame of the bay's own, one offered to each line (R91, R159). -/
def State.offerBoth (q : QueueName) (f : RingFrame) (s : State) : State :=
  (s.offerLine .a q f).offerLine .b q f

/-! ### The own bay and the stream table -/

/-- Whether the own bay is valid (R2). -/
def State.bayValid (s : State) : Bool := validBay s.ownBay

/-- The entry with an identifier. -/
def State.find (s : State) (id : StreamId) : Option Entry := findEntry id s.table

/-- The identifier of an own-bay stream. -/
def State.ownId (s : State) (index : Byte) : StreamId := ⟨s.ownBay, index⟩

/-- Whether a bay named by JOIN, LEAVE or READ STREAM is refused with RANGE (R1): 0 or 255 and not the own bay. -/
def State.bayRefused (s : State) (bay : Byte) : Bool := !validBay bay && bay != s.ownBay

/-- A tributary teardown (R38, R100): claims released, memberships removed, delivery queues emptied. The frame in flight
stays; that a record which a free transmitter took at its placement just before is such a frame, where R101 says that it
is emptied and counted discarded, is the model's reading (DEDUCED, log 19). -/
def State.teardown (t : Trib) (s : State) : State :=
  ({ s with table := s.table.filterMap (Entry.teardown t) }).changePort t Port.emptyQueues

end Sys2Proof.Machine
end

