-- ==== Sys2Proof/Machine/LineUnit.lean ====
section
/-! DEFINITION. The line receiver: levels (R106, R108), the entry into LOCKED (R107), the departures for SEARCH and
for OFF (R108, R111, R112), with what the egress does at each (R130, R132, R133) and the LINE report (R119). -/

namespace Sys2Proof.Machine

/-- The level after a dwell expiry (R106). -/
def stepLevel (floor level : Nat) : Nat := if level < 15 then level + 1 else floor

/-- The next level at a departure from LOCKED (R108). -/
def nextLevel (floor level : Nat) : Nat := if 15 < max (level + 1) floor then floor else max (level + 1) floor

/-- The receiver's entry into SEARCH at a level, with the dwell timer started (R108, R111, R113). -/
def State.startSearch (l : Line) (level : Nat) (s : State) : State :=
  s.changeReceiver l fun r =>
    { r with
      state := .search
      level := level
      dwellTimer := some (s.dueIn s.profile.dwell)
      qualityTimer := none
      qualityCount := 0 }

/-- The departure from LOCKED for SEARCH, with every effect of R108 and R130, and the LINE report (R119). -/
def State.departForSearch (l : Line) (level : Nat) (s : State) : State :=
  ((s.startSearch l level).changeEgress l (Egress.abort s.profile.urgentBurst)).raiseAll .line

/-- The entry into OFF (R112); from LOCKED the egress flushes its queues and the frame in flight completes (R132). A
frame that a free transmitter took at its placement just before is in flight, and so is sent and counted as sent,
where R124 could be read to lose it as a line-down drop (DEDUCED, log 18). -/
def State.turnOff (l : Line) (s : State) : State :=
  let off := s.changeReceiver l fun r =>
    { r with state := .off, dwellTimer := none, qualityTimer := none, qualityCount := 0 }
  (if s.isOpen l then off.changeEgress l (Egress.flush s.profile.urgentBurst) else off).raiseAll .line

/-- The entry into LOCKED (R107). -/
def State.lock (l : Line) (s : State) : State :=
  (s.changeReceiver l fun r =>
    { r with
      state := .locked
      dwellTimer := none
      qualityTimer := some (s.dueIn s.profile.qualityPeriod)
      qualityCount := 0
      counters := { r.counters with lockAcquisitions := r.counters.lockAcquisitions + 1 } }).raiseAll .line

/-- The floor of a line. -/
def State.floor (s : State) (l : Line) : Nat := s.profile.floors.get l

/-- A check failure on a LOCKED line (R116): counted, counted toward quality, and a relock at the threshold. -/
def State.checkFailure (l : Line) (s : State) : State :=
  let r := s.receivers.get l
  let counted := s.changeReceiver l fun r =>
    { r with
      qualityCount := r.qualityCount + 1
      counters := { r.counters with checkFailures := r.counters.checkFailures + 1 } }
  if s.profile.qualityThreshold ≤ r.qualityCount + 1 then
    (counted.changeReceiver l fun r =>
      { r with counters := { r.counters with qualityRelocks := r.counters.qualityRelocks + 1 } }).departForSearch l
      (nextLevel (s.floor l) r.level)
  else counted

/-- What a SETUP that has just been applied does to a receiver whose floor it changed (R110): in SEARCH with a level
below the new floor, the level becomes the floor and the dwell is restarted. -/
def State.floorChanged (l : Line) (s : State) : State :=
  if (s.receivers.get l).state = .search ∧ (s.receivers.get l).level < s.floor l then
    s.changeReceiver l fun r => { r with level := s.floor l, dwellTimer := some (s.dueIn s.profile.dwell) }
  else s

end Sys2Proof.Machine
end

