-- ==== Sys2Proof/Machine/Operands.lean ====
section
/-! DEFINITION. Coded values: what the bytes of a frame, a request or a snapshot stand for (R8, R9, R13, R14, R167,
R168, R170). Decoding answers `none` for a value outside the list, which the acting block answers with RANGE. -/

namespace Sys2Proof.Machine

/-- `n` in `k` bytes, most significant byte first (00 section 4.1). -/
def beBytes : Nat → Nat → List Byte
  | 0, _ => []
  | k + 1, n => BitVec.ofNat 8 (n / 256 ^ k) :: beBytes k n

/-- A signed value in `k` bytes of two's complement (R170). -/
def beSigned (k : Nat) (i : Int) : List Byte := beBytes k (i % (256 ^ k : Nat)).toNat

/-- A yes or no: 0 for no and 1 for yes (R170). -/
def boolByte (b : Bool) : Byte := if b then 1 else 0

/-- An item that may be absent: a byte 0, or a byte 1 and the item (R170). -/
def optionBytes {α : Type} (enc : α → List Byte) : Option α → List Byte
  | none => [0]
  | some x => 1 :: enc x

/-- A list: a one-byte count and its items (R170). -/
def counted {α : Type} (enc : α → List Byte) (xs : List α) : List Byte :=
  BitVec.ofNat 8 xs.length :: xs.flatMap enc

/-- A class in a request or snapshot: 1 URGENT, 2 PERIODIC, 3 GENERAL (R167). -/
def classOfCode (c : Byte) : Option StreamClass :=
  match c.toNat with
  | 1 => some .urgent
  | 2 => some .periodic
  | 3 => some .general
  | _ => none

/-- The code of a class (R167). -/
def StreamClass.code : StreamClass → Byte
  | .urgent => 1
  | .periodic => 2
  | .general => 3

/-- A line in a request: 0 A, 1 B (R167). -/
def lineOfCode (c : Byte) : Option Line :=
  match c.toNat with
  | 0 => some .a
  | 1 => some .b
  | _ => none

/-- The code of a line (R167). -/
def lineCode : Line → Byte
  | .a => 0
  | .b => 1

/-- A position of a service list: 0 FWD, 1 to 4 LOC0 to LOC3, 5 OWN (R168). -/
def normalQueueOfCode (c : Byte) : Option NormalQueue :=
  match c.toNat with
  | 0 => some .fwd
  | 1 => some (.loc .t0)
  | 2 => some (.loc .t1)
  | 3 => some (.loc .t2)
  | 4 => some (.loc .t3)
  | 5 => some .own
  | _ => none

/-- The code of a position of a service list (R168). -/
def NormalQueue.code : NormalQueue → Byte
  | .fwd => 0
  | .loc t => BitVec.ofNat 8 (t.toNat + 1)
  | .own => 5

/-- A queue name by its position in R121's list: urgent, FWD, LOC0 to LOC3, OWN (R170). -/
def QueueName.code : QueueName → Byte
  | .urgent => 0
  | .normal .fwd => 1
  | .normal (.loc t) => BitVec.ofNat 8 (t.toNat + 2)
  | .normal .own => 6

/-- A level or other two-valued field: 0 low, 1 high (R167). -/
def levelOfCode (c : Byte) : Option Bool :=
  match c.toNat with
  | 0 => some false
  | 1 => some true
  | _ => none

/-- A loss policy: 0 HOLD, 1 SAFE (R167). -/
def policyOfCode (c : Byte) : Option Policy :=
  match c.toNat with
  | 0 => some .hold
  | 1 => some .safe
  | _ => none

/-- The code of a loss policy (R167). -/
def Policy.code : Policy → Byte
  | .hold => 0
  | .safe => 1

/-- The bit of a source bay's inputs that a binding names: 0 to 7 (R160). -/
def bitOfCode (c : Byte) : Option (Fin 8) := if h : c.toNat < 8 then some ⟨c.toNat, h⟩ else none

/-- The code of a health (R14). -/
def Health.code : Health → Byte
  | .waiting => 0
  | .dual => 1
  | .singleA => 2
  | .singleB => 3
  | .lost => 4

/-- The code of a shown health (R14). -/
def ShownHealth.code : ShownHealth → Byte
  | .supervised h => h.code
  | .localStream => 5

/-- The code of a ring state (R9). -/
def RingState.code : RingState → Byte
  | .unknown => 0
  | .closed => 1
  | .half => 2
  | .opened => 3

/-- The ring state a beacon's body names (R9). -/
def ringStateOfCode (c : Byte) : Option RingState :=
  match c.toNat with
  | 0 => some .unknown
  | 1 => some .closed
  | 2 => some .half
  | 3 => some .opened
  | _ => none

/-- The code of a result (R13). -/
def ResultCode.code : ResultCode → Byte
  | .done => 0
  | .taken => 1
  | .held => 2
  | .full => 3
  | .range => 4
  | .notHeld => 5
  | .refused => 6
  | .lastPath => 7
  | .unknown => 8

/-- A holder by its position in T0, T1, T2, T3, MIRROR (R16, R170). -/
def Holder.code : Holder → Byte
  | .trib t => BitVec.ofNat 8 t.toNat
  | .mirror => 4

/-- A publisher state by its position in ACTIVE, HELD (R16, R170). -/
def PublisherState.code : PublisherState → Byte
  | .active => 0
  | .held => 1

/-- A link state by its position in DOWN, UP (R83, R170). -/
def LinkState.code : LinkState → Byte
  | .down => 0
  | .up => 1

/-- A receiver state by its position in OFF, SEARCH, LOCKED (R104, R170). -/
def ReceiverState.code : ReceiverState → Byte
  | .off => 0
  | .search => 1
  | .locked => 2

/-- A subscriber set as a bit set: bits 0 to 3 for T0 to T3, bit 4 for MIRROR (R170). -/
def Members.bits (m : Members) : Byte :=
  (Oct.mk m.tribs.t0 m.tribs.t1 m.tribs.t2 m.tribs.t3 m.mirror false false false).bits

end Sys2Proof.Machine
end

