-- ==== Sys2Proof/Machine/Codec.lean ====
section
/-! DEFINITION. The byte layouts of chapter 1: the check (R8), ring frames (R8, R9, R11), tributary frames (R12, R13,
R15) and delivery records (R14). -/

namespace Sys2Proof.Machine

/-! ### The check (R8) -/

/-- One bit of the cyclic redundancy code, with the generator polynomial 04C11DB7h (R8). -/
def crcBit (c : BitVec 32) : BitVec 32 :=
  if c.msb then (c <<< 1) ^^^ 0x04C11DB7#32 else c <<< 1

/-- One byte fed into the code, most significant bit first (R8). -/
def crcByte (c : BitVec 32) (b : Byte) : BitVec 32 :=
  crcBit^[8] (c ^^^ (b.setWidth 32 <<< 24))

/-- The check over a byte string: the register starts at all ones and its final value is inverted (R8). -/
def checkOf (bytes : List Byte) : BitVec 32 := ~~~ bytes.foldl crcByte (BitVec.allOnes 32)

/-- The check as sent, most significant byte first (R8). -/
def checkBytes (bytes : List Byte) : List Byte := beBytes 4 (checkOf bytes).toNat

/-- A received byte string without its last four bytes (R11, R15). -/
def withoutCheck (bytes : List Byte) : List Byte := bytes.take (bytes.length - 4)

/-- Whether the check computed over all bytes but the last four equals the last four (R11, R15). -/
def checkHolds (bytes : List Byte) : Bool := checkBytes (withoutCheck bytes) == bytes.drop (bytes.length - 4)

/-- Two bytes read as one number, most significant byte first (00 section 4.1). -/
def wordOf (hi lo : Byte) : BitVec 16 := hi ++ lo

/-! ### Ring frames (R8, R9, R11) -/

/-- The type code of a ring frame (R8). -/
def FrameKind.code : FrameKind → Byte
  | .stream .urgent => 0x71
  | .stream .periodic => 0x72
  | .stream .general => 0x73
  | .beacon => 0x7B

/-- What a type code stands for (R8). -/
def frameKindOfCode (c : Byte) : Option FrameKind :=
  match c.toNat with
  | 0x71 => some (.stream .urgent)
  | 0x72 => some (.stream .periodic)
  | 0x73 => some (.stream .general)
  | 0x7B => some .beacon
  | _ => none

/-- The eight header bytes of a ring frame (R8). -/
def RingFrame.header (f : RingFrame) : List Byte :=
  [f.kind.code, f.origin, f.index, f.lap] ++ beBytes 2 f.seq.toNat ++ beBytes 2 f.payload.length

/-- A ring frame on the wire: header, payload and check (R8). -/
def RingFrame.bytes (f : RingFrame) : List Byte :=
  f.header ++ f.payload ++ checkBytes (f.header ++ f.payload)

/-- The four classes of a received ring frame (R11). -/
inductive LineClass where
  | tooLong
  | checkFailure
  | malformed
  | good (f : RingFrame)
deriving DecidableEq, Repr

/-- The header of a frame whose check is correct, judged by row 3 of R11: `none` when malformed. -/
def readRingFrame (bytes : List Byte) : Option RingFrame :=
  match withoutCheck bytes with
  | ty :: bay :: index :: lap :: s1 :: s0 :: l1 :: l0 :: payload =>
    match frameKindOfCode ty with
    | some kind =>
      if index.toNat ≤ 63 ∧ lap.toNat ≤ 63 ∧ (wordOf l1 l0).toNat ≤ 1024
          ∧ (wordOf l1 l0).toNat + 12 = bytes.length
          ∧ (kind = .beacon → (wordOf l1 l0).toNat = 3 ∧ index = 0) then
        some ⟨kind, bay, index, lap, wordOf s1 s0, payload⟩
      else none
    | none => none
  | _ => none

/-- The class of a byte string received on a LOCKED line, tested in the order of R11. -/
def classifyLine (bytes : List Byte) : LineClass :=
  if bytes.length > 1036 then .tooLong
  else if bytes.length < 12 ∨ checkHolds bytes = false then .checkFailure
  else match readRingFrame bytes with
    | some f => .good f
    | none => .malformed

/-! ### Tributary frames (R12 to R15) -/

/-- A tributary frame on the wire: type code, body length, body and check (R12). -/
def tribFrameBytes (ty : Byte) (body : List Byte) : List Byte :=
  ty :: beBytes 2 body.length ++ body ++ checkBytes (ty :: beBytes 2 body.length ++ body)

/-- What a good or malformed tributary frame is to the port (R15). -/
inductive TribInput where
  | malformed
  | publish (index : Byte) (payload : List Byte)
  | request (r : Request)
deriving DecidableEq, Repr

/-- The class of a byte string received on an UP tributary link (R15, R13). -/
def classifyTrib (bytes : List Byte) : TribInput :=
  if bytes.length < 7 ∨ checkHolds bytes = false then .malformed
  else match withoutCheck bytes with
    | ty :: l1 :: l0 :: body =>
      if (wordOf l1 l0).toNat + 7 ≠ bytes.length ∨ (wordOf l1 l0).toNat > 1025 then .malformed
      else match ty.toNat, body with
        | 0x11, index :: payload => if index.toNat ≤ 63 then .publish index payload else .malformed
        | 0x12, code :: tag :: fields => .request ⟨code, tag, fields⟩
        | _, _ => .malformed
    | _ => .malformed

/-- The code of a record kind (R14). -/
def RecordKind.code : RecordKind → Byte
  | .data => 1
  | .lost => 2
  | .restored => 3

/-- The origin-line field of a delivery record's flags (R14). -/
def Origin.code : Origin → Nat
  | .none => 0
  | .line .a => 1
  | .line .b => 2
  | .localFanOut => 3

/-- The flags byte of a delivery record (R14). -/
def DeliveryRecord.flags (r : DeliveryRecord) : Byte :=
  BitVec.ofNat 8 (64 * r.origin.code + 32 * r.late.toNat + 16 * r.resync.toNat
    + 8 * r.gap.isSome.toNat + r.health.code.toNat)

/-- A delivery record, the body of a DELIVERY frame (R14). -/
def DeliveryRecord.bytes (r : DeliveryRecord) : List Byte :=
  [r.kind.code, r.id.bay, r.id.index] ++ beBytes 2 r.seq.toNat ++ [r.flags]
    ++ (match r.gap with | some g => beBytes 2 g | none => [])
    ++ beBytes 2 r.payload.length ++ r.payload

/-- A frame the part sends on a tributary link (R12, R13). -/
def TribFrame.bytes : TribFrame → List Byte
  | .delivery r => tribFrameBytes 0x21 r.bytes
  | .reply y => tribFrameBytes 0x22 ([y.code, y.tag, y.result.code] ++ y.fields)
  | .report kinds => tribFrameBytes 0x23 (beBytes 2 kinds.toNat)

/-- A PUBLISH frame as an attached device sends it (R12, R13). -/
def publishBytes (index : Byte) (payload : List Byte) : List Byte := tribFrameBytes 0x11 (index :: payload)

/-- A REQUEST frame as an attached device sends it (R12, R13). -/
def requestBytes (r : Request) : List Byte := tribFrameBytes 0x12 (r.code :: r.tag :: r.fields)

end Sys2Proof.Machine
end

