-- ==== Sys2Proof/Machine/Contacts.lean ====
section
/-! DEFINITION. The contact mirror: debounce (R155), contact frames (R156 to R159), source records and outputs (R160
to R162). -/

namespace Sys2Proof.Machine

/-! ### Inputs (R155) -/

/-- Whether a sample is an accepted change of an input (R155). -/
def ContactInput.accepts (d : Nat) (level : Bool) (c : ContactInput) : Bool :=
  level != c.accepted && decide (d ≤ c.run + 1)

/-- An input after a sample (R155). -/
def ContactInput.sample (d : Nat) (level : Bool) (c : ContactInput) : ContactInput :=
  if level = c.accepted then { c with run := 0 }
  else if d ≤ c.run + 1 then ⟨level, 0⟩
  else { c with run := c.run + 1 }

/-- The number of ones of a byte. -/
def ones (b : Byte) : Nat := (Oct.ofFn fun i => b.getLsbD i.val).toList.count true

/-- The inputs with an accepted change at a sample of these levels (R155). -/
def Mirror.changes (levels : Byte) (m : Mirror) : Byte :=
  (Oct.ofFn fun i => (m.inputs.get i).accepts m.debounce (levels.getLsbD i.val)).bits

/-- The mirror's settings and counts after a sample (R155, R156): run counts, accepted states, the accepted-changes
counter, and for the enabled inputs the change counter and, while publishing is on, the changed set. -/
def Mirror.sample (levels : Byte) (m : Mirror) : Mirror :=
  { m with
    inputs := Oct.ofFn fun i => (m.inputs.get i).sample m.debounce (levels.getLsbD i.val)
    sampleDue := m.sampleDue + BitVec.ofNat 32 Config.samplePeriod
    changeCounter := m.changeCounter + BitVec.ofNat 8 (ones (m.changes levels &&& m.enableMask))
    changedSet := if m.publish then m.changedSet ||| (m.changes levels &&& m.enableMask) else m.changedSet
    counters := { m.counters with
      acceptedChanges := m.counters.acceptedChanges + BitVec.ofNat 16 (ones (m.changes levels)) } }

/-! ### Contact frames (R157 to R159) -/

/-- The kinds of contact frame (R157). -/
inductive ContactFrameKind where
  | change
  | refresh
  | request
deriving DecidableEq, Repr

/-- The accepted states as a byte. -/
def Mirror.acceptedStates (m : Mirror) : Byte := (Oct.ofFn fun i => (m.inputs.get i).accepted).bits

/-- The payload of a contact frame (R158, R10). -/
def Mirror.payload (m : Mirror) : List Byte :=
  [(m.acceptedStates &&& m.enableMask) ||| (m.maskValues &&& ~~~ m.enableMask), m.enableMask, m.changeCounter,
    m.changedSet &&& m.enableMask]

/-- The counter of a contact frame's kind advanced (R157). -/
def MirrorCounters.count (k : ContactFrameKind) (c : MirrorCounters) : MirrorCounters :=
  match k with
  | .change => { c with changeFrames := c.changeFrames + 1 }
  | .refresh => { c with refreshFrames := c.refreshFrames + 1 }
  | .request => { c with requestFrames := c.requestFrames + 1 }

/-- The mirror after a frame is built: the changed set emptied, the refresh timer restarted and the frame counted
(R157, R158). -/
def Mirror.framed (k : ContactFrameKind) (now : Time) (m : Mirror) : Mirror :=
  { m with
    changedSet := 0
    refreshTimer := some (now + millis m.refresh)
    counters := m.counters.count k }

/-- An intake of an entry's publisher: the sequence counter and the intakes counter advance (R90, R159). -/
def Entry.intake (e : Entry) : Entry :=
  { e with
    publisher := e.publisher.map fun p => { p with seq := p.seq + 1 }
    counters := { e.counters with intakes := e.counters.intakes + 1 } }

/-- The ring frame of the own bay for a stamped sequence, with the lap budget of this moment (R5, R90, R159). -/
def State.ownFrame (s : State) (cls : StreamClass) (index : Byte) (seq : SeqNo) (payload : List Byte) : RingFrame :=
  ⟨.stream cls, s.ownBay, index, BitVec.ofNat 8 s.profile.lapBudget, seq, payload⟩

/-- A contact frame built, stamped on own-bay/0 and offered to the urgent queue of both egresses (R157 to R159). -/
def State.contactFrame (k : ContactFrameKind) (s : State) : State :=
  let built := { s with mirror := s.mirror.framed k s.timeBase }
  match (s.find (s.ownId 0)).bind fun e => e.publisher with
  | some p =>
    ({ built with table := changeEntry (s.ownId 0) (fun e => some e.intake) built.table }).offerBoth .urgent
      (s.ownFrame .urgent 0 p.seq s.mirror.payload)
  | none => built

/-- A sample event: the sample, and a change frame when an enabled input changed while publishing is on (R155,
R157). -/
def State.contactSample (levels : Byte) (s : State) : State :=
  let sampled := { s with inPins := levels, mirror := s.mirror.sample levels }
  if s.mirror.publish ∧ s.mirror.changes levels &&& s.mirror.enableMask ≠ 0 then sampled.contactFrame .change
  else sampled

/-! ### Source records and outputs (R160, R161) -/

/-- The bays that outputs are bound to, each once (R34, R160). -/
def boundBays (outputs : Oct ContactOutput) : List Byte :=
  (outputs.toList.filterMap fun o => o.binding.map fun b => b.bay).dedup

/-- The source record of a bay. -/
def findSource (bay : Byte) (sources : List Source) : Option Source := sources.find? fun r => r.bay = bay

/-- The source record of a bay changed. -/
def changeSource (bay : Byte) (f : Source → Source) (sources : List Source) : List Source :=
  sources.map fun r => if r.bay = bay then f r else r

/-- Every output bound to a bay given a new level by its binding and its level. -/
def Mirror.drive (bay : Byte) (f : Binding → Bool → Bool) (m : Mirror) : Mirror :=
  { m with
    outputs := Oct.ofFn fun i =>
      match (m.outputs.get i).binding with
      | some b => if b.bay = bay then { m.outputs.get i with level := f b (m.outputs.get i).level } else m.outputs.get i
      | none => m.outputs.get i }

/-- A change of a bound stream's health to a value other than LOST (R75, R161). -/
def Mirror.hearHealth (bay : Byte) (h : Health) (m : Mirror) : Mirror :=
  { m with sources := changeSource bay (fun r => { r with health := h }) m.sources }

/-- The entry into LOST of a bound stream (R75, R161): no data, and SAFE outputs at their safe level. -/
def Mirror.hearLost (bay : Byte) (m : Mirror) : Mirror :=
  ({ m with sources := changeSource bay (fun r => { r with health := .lost, data := none }) m.sources }).drive bay
    fun b level => match b.policy with
      | .hold => level
      | .safe => b.safeLevel

/-- The level a bound output takes from contact data: the bound bit when it is enabled, otherwise `keep` (R161,
R162). -/
def Binding.levelFrom (b : Binding) (d : ContactData) (keep : Bool) : Bool :=
  if d.mask.getLsbD b.bit.val then d.states.getLsbD b.bit.val else keep

/-- A DATA record of a bound stream, by its verdict and payload (R161). -/
def Mirror.hearData (bay : Byte) (v : Verdict) (payload : List Byte) (m : Mirror) : Mirror :=
  match v, payload with
  | .late, _ => m
  | _, st :: mask :: _ :: _ :: _ =>
    ({ m with sources := changeSource bay (fun r => { r with data := some ⟨st, mask⟩ }) m.sources }).drive bay
      fun b level => b.levelFrom ⟨st, mask⟩ level
  | _, _ => m

end Sys2Proof.Machine
end

