-- ==== Sys2Proof/Machine/Arrivals.lean ====
section
/-! DEFINITION. The one operation on a supervised entry that an offered arrival is (R43, R52 to R54), and the expiry of
a silence timer with the entry into LOST (R68, R69). Within an operation the reports, notices and records are placed
in the order in which the rules name them (log 6). -/

namespace Sys2Proof.Machine

/-- An arrival as the ring unit offers it (R43). -/
structure Arrival where
  id : StreamId
  cls : StreamClass
  seq : SeqNo
  payload : List Byte
  line : Line
  time : Time
deriving DecidableEq, Repr

/-- The DATA record of a delivered arrival (R52). -/
def Arrival.record (a : Arrival) (v : Verdict) (h : Health) : DeliveryRecord where
  kind := .data
  id := a.id
  seq := a.seq
  origin := .line a.line
  late := v == .late
  resync := v == .resync
  gap := match v with
    | .ahead gap => if 0 < gap then some gap else none
    | _ => none
  health := .supervised h
  payload := a.payload

/-- A LOST or RESTORED notice (R73). -/
def notice (kind : RecordKind) (id : StreamId) (h : Health) : DeliveryRecord :=
  ⟨kind, id, 0, .none, false, false, none, .supervised h, []⟩

/-- The entry after an arrival (R17, R43, R56, R65). -/
def Entry.arrive (limit : Nat) (a : Arrival) (sup : Supervision) (e : Entry) : Entry :=
  { e with
    cls := a.cls
    sup := some (sup.arrive limit a.seq a.line a.time)
    counters := (e.counters.arrive a.line).count (sup.window.judge a.seq).verdict (sup.window.judge a.seq).lost }

/-- A change of health made known (R74, R75): a HEALTH report to each tributary member, and the new value to the
mirror's source record when MIRROR is a member. -/
def State.tellHealth (id : StreamId) (m : Members) (h : Health) (s : State) : State :=
  let told := s.raiseMembers .health m
  if m.mirror then { told with mirror := told.mirror.hearHealth id.bay h } else told

/-- A delivered arrival handed to the members (R53): the DATA record to each tributary, and the verdict with the
payload to the contact mirror. -/
def State.handRecord (a : Arrival) (v : Verdict) (h : Health) (m : Members) (s : State) : State :=
  let placed := s.offerDataTo m (a.cls == .urgent) (a.record v h)
  if m.mirror then { placed with mirror := placed.mirror.hearData a.id.bay v a.payload } else placed

/-- An arrival offered to an entry (R43): the verdict and the window, the health and the skew record, the reports and
notices they cause, then the DATA record. -/
def State.arrive (a : Arrival) (s : State) : State :=
  match s.find a.id with
  | some e =>
    match e.sup with
    | some sup =>
      let after := sup.arrive s.profile.skewLimit a.seq a.line a.time
      let v := (sup.window.judge a.seq).verdict
      let s := { s with table := changeEntry a.id (fun e => some (e.arrive s.profile.skewLimit a sup)) s.table }
      let s := if after.health ≠ sup.health then s.tellHealth a.id e.members after.health else s
      let s := if sup.health = .lost then s.offerNoticeTo e.members (notice .restored a.id .dual) else s
      let s := if after.skew.alarm ≠ sup.skew.alarm then s.raiseMembers .skew e.members else s
      if v.delivers then s.handRecord a v after.health e.members else s
    | none => s
  | none => s

/-- The expiry of silence timer X of a supervised entry (R68), with the effects of the entry into LOST (R69). -/
def State.silenceExpire (id : StreamId) (x : Line) (e : Entry) (sup : Supervision) (s : State) : State :=
  let after := sup.expire x
  let s := { s with table := changeEntry id (fun e => some { e with sup := some after }) s.table }
  if after.health = .lost then
    let s := if sup.skew.alarm then s.raiseMembers .skew e.members else s
    let s := s.offerNoticeTo e.members (notice .lost id .lost)
    let s := s.raiseMembers .health e.members
    if e.members.mirror then { s with mirror := s.mirror.hearLost id.bay } else s
  else s.tellHealth id e.members after.health

end Sys2Proof.Machine
end

