-- ==== Sys2Proof/Machine/Ring.lean ====
section
/-! DEFINITION. The ring unit: own-origin removal (R137), forwarding (R138), the offer for delivery (R139), beacon
emission (R142, R143), returns of own beacons (R144, R145), the ring state (R147, R148), foreign beacons and the
roster (R149 to R152). -/

namespace Sys2Proof.Machine

/-- The ring unit's part of the state changed. -/
def State.changeRing (f : RingUnit → RingUnit) (s : State) : State := { s with ring := f s.ring }

/-- The counters of the ring unit changed. -/
def State.countRing (f : RingCounters → RingCounters) (s : State) : State :=
  s.changeRing fun r => { r with counters := f r.counters }

/-! ### Forwarding -/

/-- The queue of the other line's egress that a forwarded frame is offered to (R4, R138, R149). -/
def forwardQueue : FrameKind → QueueName
  | .stream .urgent => .urgent
  | .stream .periodic => .normal .fwd
  | .stream .general => .normal .fwd
  | .beacon => .normal .fwd

/-- A frame as forwarded: the lap one less and everything else kept; the check is computed from the frame (R5, R138). -/
def RingFrame.forwarded (f : RingFrame) : RingFrame := { f with lap := f.lap - 1 }

/-- The forwarding of a foreign frame that arrived on line X (R138, R149). -/
def State.forward (x : Line) (f : RingFrame) (s : State) : State :=
  if f.lap = 0 then s.countRing fun c => { c with lapExpired := c.lapExpired + 1 }
  else s.offerLine x.other (forwardQueue f.kind) f.forwarded

/-- The offer for delivery of a foreign STREAM frame, or its count as passed (R139). -/
def State.offerDelivery (x : Line) (cls : StreamClass) (f : RingFrame) (s : State) : State :=
  match s.find ⟨f.origin, f.index⟩ with
  | some _ => s.arrive ⟨⟨f.origin, f.index⟩, cls, f.seq, f.payload, x, s.timeBase⟩
  | none => s.countRing fun c => { c with passed := c.passed + 1 }

/-- A good STREAM frame (R137 to R139). -/
def State.takeStream (x : Line) (cls : StreamClass) (f : RingFrame) (s : State) : State :=
  if f.origin = s.ownBay then s.countRing fun c => { c with returnedOwn := c.returnedOwn + 1 }
  else (s.forward x f).offerDelivery x cls f

/-! ### Beacon emission -/

/-- Whether a direction counts as returning (R147). -/
def returning (age : Nat) : Bool := decide (age ≤ 2)

/-- The ring state that the return ages give (R147). -/
def evaluateRing (ages : Pair Nat) : RingState :=
  match returning ages.a, returning ages.b with
  | true, true => .closed
  | true, false => .half
  | false, true => .half
  | false, false => .opened

/-- A return age after an emission (R142 step 6). -/
def ageReturn (age : Nat) : Nat := min 3 (age + 1)

/-- A record added at the tail of an outstanding list (R143): a record that the list still holds of the same sequence,
65,536 emissions old, leaves it, so that the sequences stay distinct (DEDUCED, log 17), and then the oldest of four. -/
def addOutstanding (r : Outstanding) (list : List Outstanding) : List Outstanding :=
  let others := list.filter fun o => o.seq ≠ r.seq
  (if Config.outstandingCapacity ≤ others.length then others.tail else others) ++ [r]

/-- Steps 1 and 2 of an emission (R142): the sequence and the tally advance, and from the third emission on the ring
state is evaluated. -/
def RingUnit.emission (r : RingUnit) : RingUnit :=
  { r with
    beaconSeq := r.beaconSeq + 1
    tally := min 3 (r.tally + 1)
    state := if 2 ≤ r.tally then evaluateRing r.returnAge else r.state }

/-- The beacon of an emission (R9, R142 step 3). -/
def State.beacon (s : State) : RingFrame :=
  ⟨.beacon, s.ownBay, 0, BitVec.ofNat 8 s.profile.lapBudget, s.ring.beaconSeq,
    [BitVec.ofNat 8 s.profile.lapBudget, BitVec.ofNat 8 s.profile.beaconInterval, s.ring.state.code]⟩

/-- Steps 4 and 5 of an emission for one line (R142): a copy offered to the OWN queue of a LOCKED line, and the
outstanding record when the egress places it. -/
def State.sendBeacon (l : Line) (f : RingFrame) (s : State) : State :=
  if s.isOpen l then
    let offered := s.offerLine l (.normal .own) f
    if s.wouldPlace l (.normal .own) then
      offered.changeRing fun r =>
        { r with
          outstanding := r.outstanding.set l (addOutstanding ⟨f.seq, s.timeBase⟩ (r.outstanding.get l)) }
    else offered
  else s

/-- A beacon emission (R142), with the RING report of a changed ring state (R148). -/
def State.emitBeacon (s : State) : State :=
  let evaluated := s.changeRing RingUnit.emission
  let told := if evaluated.ring.state ≠ s.ring.state then evaluated.raiseAll .ring else evaluated
  ((told.sendBeacon .a told.beacon).sendBeacon .b told.beacon).changeRing fun r =>
    { r with returnAge := r.returnAge.map ageReturn }

/-! ### Beacons received -/

/-- Whether an own beacon's body can be one this part built: a lap budget of at most 63 and not below the lap it
carries (R144). -/
def ownBodyFits (budget lap : Byte) : Bool := decide (budget.toNat ≤ 63 ∧ lap.toNat ≤ budget.toNat)

/-- The return of an own beacon matched on direction Y (R144, R145). -/
def RingUnit.matched (y : Line) (rec : Outstanding) (budget lap : Byte) (now : Time) (r : RingUnit) : RingUnit :=
  { r with
    outstanding := r.outstanding.set y ((r.outstanding.get y).erase rec)
    lastReturn := r.lastReturn.set y (some now)
    returnAge := r.returnAge.set y 0
    measured := r.measured.set y (some ⟨now - rec.sendTime, budget.toNat - lap.toNat + 1⟩) }

/-- A bay clash: counted, and reported to every UP tributary (R144, R146). -/
def State.bayClash (s : State) : State :=
  (s.countRing fun c => { c with bayClash := c.bayClash + 1 }).raiseAll .bayClash

/-- An own beacon that arrived on line X, with the lap budget of its body (R144). -/
def State.takeOwnBeacon (x : Line) (budget : Byte) (f : RingFrame) (s : State) : State :=
  match (s.ring.outstanding.get x.other).find? fun r => r.seq = f.seq with
  | some rec =>
    if ownBodyFits budget f.lap then s.changeRing (RingUnit.matched x.other rec budget f.lap s.timeBase)
    else s.bayClash
  | none => s.bayClash

/-- The roster part that a foreign beacon sets, when it passes the check of R149 (R150). -/
def rosterPart (f : RingFrame) (budget interval state : Byte) (now : Time) : Option RosterPart :=
  match ringStateOfCode state with
  | some reported =>
    if validBay f.origin ∧ f.lap.toNat ≤ budget.toNat ∧ budget.toNat ≤ 63 ∧ 1 ≤ interval.toNat
        ∧ interval.toNat ≤ 100 then
      some ⟨budget.toNat - f.lap.toNat, now, now + millis (3 * interval.toNat), reported⟩
    else none
  | none => none

/-- A record placed in the roster, in ascending bay order. -/
def insertRecord (r : RosterRecord) (roster : List RosterRecord) : List RosterRecord :=
  roster.orderedInsert (fun x y => x.bay.toNat ≤ y.bay.toNat) r

/-- Part X of a bay's record set (R150): in the record the bay has, or in a new record with part X alone. -/
def setPart (bay : Byte) (x : Line) (part : RosterPart) (roster : List RosterRecord) : List RosterRecord :=
  if roster.any fun r => r.bay == bay then
    roster.map fun r => if r.bay = bay then { r with parts := r.parts.set x (some part) } else r
  else insertRecord ⟨bay, (⟨none, none⟩ : Pair (Option RosterPart)).set x (some part)⟩ roster

/-- A checked foreign beacon entered in the roster, or counted roster-full (R150). -/
def RingUnit.enter (bay : Byte) (x : Line) (part : RosterPart) (r : RingUnit) : RingUnit :=
  if (r.roster.any fun rec => rec.bay == bay) = false ∧ Config.rosterCapacity ≤ r.roster.length then
    { r with counters := { r.counters with rosterFull := r.counters.rosterFull + 1 } }
  else { r with roster := setPart bay x part r.roster }

/-- A foreign beacon that arrived on line X (R149). -/
def State.takeForeignBeacon (x : Line) (budget interval state : Byte) (f : RingFrame) (s : State) : State :=
  let forwarded := s.forward x f
  match rosterPart f budget interval state s.timeBase with
  | some part => forwarded.changeRing (RingUnit.enter f.origin x part)
  | none => forwarded.countRing fun c => { c with beaconRejects := c.beaconRejects + 1 }

/-- A good frame passed to the ring unit by the receiver of line X (R117, R137, R144, R149). A good beacon has a body
of three bytes (R11). -/
def State.takeFrame (x : Line) (f : RingFrame) (s : State) : State :=
  match f.kind, f.payload with
  | .stream cls, _ => s.takeStream x cls f
  | .beacon, [budget, interval, state] =>
    if f.origin = s.ownBay then s.takeOwnBeacon x budget f else s.takeForeignBeacon x budget interval state f
  | .beacon, _ => s

/-! ### The roster's ageing and readings -/

/-- Part X of a bay's record removed, with the record when it then has neither part (R151). -/
def removePart (bay : Byte) (x : Line) (roster : List RosterRecord) : List RosterRecord :=
  roster.filterMap fun r =>
    if r.bay = bay then
      if (r.parts.get x.other).isSome then some { r with parts := r.parts.set x none } else none
    else some r

/-- The part of a bay's record on a line. -/
def findPart (bay : Byte) (x : Line) (roster : List RosterRecord) : Option RosterPart :=
  (roster.find? fun r => r.bay = bay).bind fun r => r.parts.get x

/-- The bays heard on a line, each with its hop distance, in ascending bay order (R152). -/
def heardOn (x : Line) (roster : List RosterRecord) : List (Byte × Nat) :=
  roster.filterMap fun r => (r.parts.get x).map fun part => (r.bay, part.hops)

/-- The neighbours on a line (R152). -/
def neighbours (x : Line) (roster : List RosterRecord) : List Byte :=
  ((heardOn x roster).filter fun h => h.2 == 0).map fun h => h.1

/-- The largest distance on a line (R152). -/
def farthestDistance (x : Line) (roster : List RosterRecord) : Option Nat :=
  ((heardOn x roster).map fun h => h.2).max?

/-- The bays at a distance on a line. -/
def baysAt (x : Line) (d : Nat) (roster : List RosterRecord) : List Byte :=
  ((heardOn x roster).filter fun h => h.2 == d).map fun h => h.1

/-- The farthest distance on a line with a bay that holds it (R152). Which of several is a FREE VALUE (log 10). -/
def farthest (x : Line) (pick : Nat) (roster : List RosterRecord) : Option (Nat × Byte) :=
  (farthestDistance x roster).map fun d =>
    (d, (baysAt x d roster).getD (pick % (baysAt x d roster).length) 0)

end Sys2Proof.Machine
end

