-- ==== Sys2Proof/Machine/LineEvents.lean ====
section
/-! DEFINITION. Meanings: the events of a line's front end and of its two timers (R106 to R108, R115 to R118, R129,
R131). -/

namespace Sys2Proof.Machine

/-- LOCK_ACQUIRED (R107): in SEARCH the receiver enters LOCKED; in LOCKED or OFF there is no effect. -/
def execLockAcquired (l : Line) (s : State) : Outcome :=
  match (s.receivers.get l).state with
  | .search => .next (s.lock l)
  | .locked => .next s
  | .off => .next s

/-- LOCK_LOST (R108): in LOCKED the loss is counted and the receiver departs for SEARCH at the next level; in SEARCH
or OFF there is no effect. -/
def execLockLost (l : Line) (s : State) : Outcome :=
  match (s.receivers.get l).state with
  | .locked =>
    .next ((s.changeReceiver l fun r =>
      { r with counters := { r.counters with lockLosses := r.counters.lockLosses + 1 } }).departForSearch l
        (nextLevel (s.floor l) (s.receivers.get l).level))
  | .search => .next s
  | .off => .next s

/-- DWELL_EXPIRY (R106): the level steps and the dwell timer is restarted. A stopped timer does not expire. -/
def execDwellExpiry (l : Line) (s : State) : Outcome :=
  match (s.receivers.get l).state, (s.receivers.get l).dwellTimer with
  | .search, some due =>
    let s := s.advanceTo due
    .next (s.changeReceiver l fun r =>
      { r with level := stepLevel (s.floor l) r.level, dwellTimer := some (s.dueIn s.profile.dwell) })
  | _, _ => .next s

/-- QUALITY_PERIOD_EXPIRY (R115): the quality count returns to 0 and the timer is restarted. A stopped timer does not
expire. -/
def execQualityPeriodExpiry (l : Line) (s : State) : Outcome :=
  match (s.receivers.get l).state, (s.receivers.get l).qualityTimer with
  | .locked, some due =>
    let s := s.advanceTo due
    .next (s.changeReceiver l fun r =>
      { r with qualityCount := 0, qualityTimer := some (s.dueIn s.profile.qualityPeriod) })
  | _, _ => .next s

/-- The counters of a receiver changed. -/
def State.countLine (l : Line) (f : ReceiverCounters → ReceiverCounters) (s : State) : State :=
  s.changeReceiver l fun r => { r with counters := f r.counters }

/-- LINE_FRAME_RECEIVED (R117, R118): in LOCKED the frame is classified and counted, and a good one is passed to the
ring unit; otherwise it is an unlocked discard. -/
def execLineFrameReceived (l : Line) (bytes : List Byte) (s : State) : Outcome :=
  if s.isOpen l then
    match classifyLine bytes with
    | .tooLong => .next (s.countLine l fun c => { c with tooLong := c.tooLong + 1 })
    | .checkFailure => .next (s.checkFailure l)
    | .malformed => .next (s.countLine l fun c => { c with malformed := c.malformed + 1 })
    | .good f => .next ((s.countLine l fun c => { c with good := c.good + 1 }).takeFrame l f)
  else .next (s.countLine l fun c => { c with unlockedDiscards := c.unlockedDiscards + 1 })

/-- LINE_END_OF_TRANSMISSION (R129, R131): of the frame in flight; the event of a frame aborted earlier has no
effect. -/
def execLineEndOfTransmission (l : Line) (of : Ended) (s : State) : Outcome :=
  match of with
  | .inFlight =>
    .next (s.changeEgress l
      (Egress.endOfTransmission (s.isOpen l) s.profile.serviceList s.profile.urgentBurst))
  | .lost => .next s

end Sys2Proof.Machine
end

