-- ==== Sys2Proof/Machine/Requests.lean ====
section
/-! DEFINITION. Decoding a request: the command that the code and fields of a waiting request stand for (R13, R166,
R167, R168), and the encoder that writes them. Total on any bytes: what does not decode is REQUEST_UNKNOWN. -/

namespace Sys2Proof.Machine

/-! ### Reading fields in encoded order (R13) -/

/-- A one-byte field. -/
def takeByte : List Byte → Option (Byte × List Byte)
  | b :: rest => some (b, rest)
  | [] => none

/-- A two-byte field, most significant byte first. -/
def takeWord : List Byte → Option (BitVec 16 × List Byte)
  | hi :: lo :: rest => some (hi ++ lo, rest)
  | _ => none

/-- A count byte and that many bytes (the service list of R168). -/
def takeCounted : List Byte → Option (List Byte × List Byte)
  | n :: rest => if n.toNat ≤ rest.length then some (rest.take n.toNat, rest.drop n.toNat) else none
  | [] => none

/-- A binding: a kind byte 0, or a kind byte 1 and four bytes; another kind byte does not decode (R167). -/
def takeBinding : List Byte → Option (Option BindingFields × List Byte)
  | k :: rest =>
    match k.toNat, rest with
    | 0, _ => some (none, rest)
    | 1, bay :: bit :: policy :: safe :: rest' => some (some ⟨bay, bit, policy, safe⟩, rest')
    | _, _ => none
  | [] => none

/-- A field of an "any subset" request, read when its presence bit is set (R13). -/
def takeIf {α : Type} (present : Bool) (take : List Byte → Option (α × List Byte)) (bs : List Byte) :
    Option (Option α × List Byte) :=
  if present then (take bs).map fun r => (some r.1, r.2) else some (none, bs)

/-- The fields of a SETUP (R168): `none` when a presence bit names no field or the length is not exact (R166). -/
def decodeSetup (bs : List Byte) : Option SetupFields := do
  let (w, bs) ← takeWord bs
  if w.toNat < 2 ^ 11 then
    let (lap, bs) ← takeIf (w.getLsbD 0) takeByte bs
    let (interval, bs) ← takeIf (w.getLsbD 1) takeByte bs
    let (hold, bs) ← takeIf (w.getLsbD 2) takeWord bs
    let (list, bs) ← takeIf (w.getLsbD 3) takeCounted bs
    let (burst, bs) ← takeIf (w.getLsbD 4) takeByte bs
    let (floorA, bs) ← takeIf (w.getLsbD 5) takeByte bs
    let (floorB, bs) ← takeIf (w.getLsbD 6) takeByte bs
    let (dwell, bs) ← takeIf (w.getLsbD 7) takeByte bs
    let (period, bs) ← takeIf (w.getLsbD 8) takeWord bs
    let (threshold, bs) ← takeIf (w.getLsbD 9) takeByte bs
    let (skew, bs) ← takeIf (w.getLsbD 10) takeWord bs
    if bs = [] then
      some ⟨lap, interval, hold, list, burst, floorA, floorB, dwell, period, threshold, skew⟩
    else none
  else none

/-- The fields of a MIRROR (R167): `none` when a presence bit names no field, a binding has another kind byte, or
the length is not exact (R166). -/
def decodeMirror (bs : List Byte) : Option MirrorFields := do
  let (w, bs) ← takeWord bs
  if w.toNat < 2 ^ 13 then
    let (publish, bs) ← takeIf (w.getLsbD 0) takeByte bs
    let (mask, bs) ← takeIf (w.getLsbD 1) takeByte bs
    let (values, bs) ← takeIf (w.getLsbD 2) takeByte bs
    let (debounce, bs) ← takeIf (w.getLsbD 3) takeByte bs
    let (refresh, bs) ← takeIf (w.getLsbD 4) takeWord bs
    let (b0, bs) ← takeIf (w.getLsbD 5) takeBinding bs
    let (b1, bs) ← takeIf (w.getLsbD 6) takeBinding bs
    let (b2, bs) ← takeIf (w.getLsbD 7) takeBinding bs
    let (b3, bs) ← takeIf (w.getLsbD 8) takeBinding bs
    let (b4, bs) ← takeIf (w.getLsbD 9) takeBinding bs
    let (b5, bs) ← takeIf (w.getLsbD 10) takeBinding bs
    let (b6, bs) ← takeIf (w.getLsbD 11) takeBinding bs
    let (b7, bs) ← takeIf (w.getLsbD 12) takeBinding bs
    if bs = [] then
      some ⟨publish, mask, values, debounce, refresh, ⟨b0, b1, b2, b3, b4, b5, b6, b7⟩⟩
    else none
  else none

/-- The row of a LINE request, by its action: 1 ENABLE, 2 DISABLE, 3 RESTART (R167). Another action is none of the
three rows (log 8). -/
def decodeLine (t : Trib) (line action : Byte) : Option Instr :=
  match action.toNat with
  | 1 => some (.lineEnable t line)
  | 2 => some (.lineDisable t line)
  | 3 => some (.lineRestart t line)
  | _ => none

/-- The row of a READ request, by its target (R170). -/
def decodeRead (t : Trib) (fields : List Byte) : Option Instr :=
  match fields with
  | target :: rest =>
    match target.toNat, rest with
    | 1, [bay, index] => some (.readStream t bay index)
    | 2, [line] => some (.readLine t line)
    | 3, [] => some (.readRing t)
    | 4, [] => some (.readTributary t)
    | 5, [] => some (.readProfile t)
    | 6, [] => some (.readMirror t)
    | _, _ => none
  | [] => none

/-- The row that a request with these fields stands for, `none` when it stands for none (R13, R167). -/
def decodeRow (t : Trib) (code : Byte) (fields : List Byte) : Option Instr :=
  match code.toNat with
  | 1 => match fields with | [index, cls] => some (.claim t index cls) | _ => none
  | 2 => match fields with | [index] => some (.release t index) | _ => none
  | 3 => match fields with
    | [bay, index, p2, p1, p0, m] => some (.join t bay index (p2 ++ p1 ++ p0) m)
    | _ => none
  | 4 => match fields with | [bay, index] => some (.leave t bay index) | _ => none
  | 5 => match fields with | [] => some (.detach t) | _ => none
  | 6 => match fields with | [line, action] => decodeLine t line action | _ => none
  | 7 => (decodeSetup fields).map (.setup t)
  | 8 => (decodeMirror fields).map (.mirror t)
  | 9 => decodeRead t fields
  | 10 => match fields with | [hi, lo] => some (.clear t (hi ++ lo)) | _ => none
  | _ => none

/-- The command that the request unit carries out when it takes this request of Tn (R165, R166). -/
def Request.command (r : Request) (t : Trib) : Instr :=
  (decodeRow t r.code r.fields).getD (.requestUnknown t r.code r.fields)

/-! ### The encoder -/

/-- A present field of an "any subset" request. -/
def encodeIf {α : Type} (enc : α → List Byte) : Option α → List Byte
  | some x => enc x
  | none => []

/-- A binding of a MIRROR request (R167). -/
def encodeBinding : Option BindingFields → List Byte
  | none => [0]
  | some f => [1, f.bay, f.bit, f.policy, f.safe]

/-- A presence set: bit k for the k-th field (R13). -/
def presence (bits : List Bool) : Nat := bits.foldr (fun b n => b.toNat + 2 * n) 0

/-- The fields of a SETUP as encoded (R168). -/
def encodeSetup (f : SetupFields) : List Byte :=
  beBytes 2 (presence [f.lapBudget.isSome, f.beaconInterval.isSome, f.claimHold.isSome, f.serviceList.isSome,
      f.urgentBurst.isSome, f.floorA.isSome, f.floorB.isSome, f.dwell.isSome, f.qualityPeriod.isSome,
      f.qualityThreshold.isSome, f.skewLimit.isSome])
    ++ encodeIf (fun b => [b]) f.lapBudget ++ encodeIf (fun b => [b]) f.beaconInterval
    ++ encodeIf (fun w => beBytes 2 w.toNat) f.claimHold
    ++ encodeIf (fun l => BitVec.ofNat 8 l.length :: l) f.serviceList
    ++ encodeIf (fun b => [b]) f.urgentBurst ++ encodeIf (fun b => [b]) f.floorA ++ encodeIf (fun b => [b]) f.floorB
    ++ encodeIf (fun b => [b]) f.dwell ++ encodeIf (fun w => beBytes 2 w.toNat) f.qualityPeriod
    ++ encodeIf (fun b => [b]) f.qualityThreshold ++ encodeIf (fun w => beBytes 2 w.toNat) f.skewLimit

/-- The fields of a MIRROR as encoded (R167). -/
def encodeMirror (f : MirrorFields) : List Byte :=
  beBytes 2 (presence ([f.publish.isSome, f.enableMask.isSome, f.maskValues.isSome, f.debounce.isSome,
      f.refresh.isSome] ++ f.bindings.toList.map Option.isSome))
    ++ encodeIf (fun b => [b]) f.publish ++ encodeIf (fun b => [b]) f.enableMask
    ++ encodeIf (fun b => [b]) f.maskValues ++ encodeIf (fun b => [b]) f.debounce
    ++ encodeIf (fun w => beBytes 2 w.toNat) f.refresh
    ++ f.bindings.toList.flatMap (encodeIf encodeBinding)

/-- The tributary, code and fields of the request that a request command stands for; `none` for the other commands. -/
def requestOf : Instr → Option (Trib × Byte × List Byte)
  | .claim t index cls => some (t, 1, [index, cls])
  | .release t index => some (t, 2, [index])
  | .join t bay index p m => some (t, 3, [bay, index] ++ beBytes 3 p.toNat ++ [m])
  | .leave t bay index => some (t, 4, [bay, index])
  | .detach t => some (t, 5, [])
  | .lineEnable t line => some (t, 6, [line, 1])
  | .lineDisable t line => some (t, 6, [line, 2])
  | .lineRestart t line => some (t, 6, [line, 3])
  | .setup t f => some (t, 7, encodeSetup f)
  | .mirror t f => some (t, 8, encodeMirror f)
  | .readStream t bay index => some (t, 9, [1, bay, index])
  | .readLine t line => some (t, 9, [2, line])
  | .readRing t => some (t, 9, [3])
  | .readTributary t => some (t, 9, [4])
  | .readProfile t => some (t, 9, [5])
  | .readMirror t => some (t, 9, [6])
  | .clear t kinds => some (t, 10, beBytes 2 kinds.toNat)
  | .requestUnknown t code fields => some (t, code, fields)
  | .powerOnReset _ _ _ | .linkUp _ | .linkDown _ | .tributaryFrameReceived _ _ => none
  | .tributaryEndOfTransmission _ _ | .claimHoldExpiry _ | .lockAcquired _ | .lockLost _ => none
  | .dwellExpiry _ | .qualityPeriodExpiry _ | .lineFrameReceived _ _ | .lineEndOfTransmission _ _ => none
  | .beaconTimerExpiry | .rosterExpiry _ _ | .silenceTimerExpiry _ _ _ | .contactSample _ => none
  | .refreshTimerExpiry => none

end Sys2Proof.Machine
end

