-- ==== Sys2Proof/Machine/RequestUnit.lean ====
section
/-! DEFINITION. The request unit: which request it takes next (R164, R165), the execution of one request as one
operation (R165, R166), and the checks and the application of a SETUP (R168). -/

namespace Sys2Proof.Machine

/-- The eligible head request of Tn: its buffer holds one and its reply slot is empty (R164). -/
def State.eligible (s : State) (t : Trib) : Option Request :=
  if (s.ports.get t).reply = none then (s.ports.get t).requests.head? else none

/-- The order in which the request unit searches the tributaries, beginning at its pointer (R165). -/
def searchOrder (t : Trib) : List Trib := [t, t.next, t.next.next, t.next.next.next]

/-- The request that the request unit takes next, with its tributary (R165). -/
def State.nextRequest (s : State) : Option (Trib × Request) :=
  (searchOrder s.pointer).findSome? fun t => (s.eligible t).map fun r => (t, r)

/-- What the acting block makes of a request: the state after it, the result, and the reply fields. -/
structure Answer where
  state : State
  result : ResultCode
  fields : List Byte

/-- An answer that leaves the state as it is and carries no fields. -/
def Answer.only (s : State) (result : ResultCode) : Answer := ⟨s, result, []⟩

/-- The answer DONE with no fields. -/
def Answer.done (s : State) : Answer := ⟨s, .done, []⟩

/-- The execution of a request of Tn (R165, R166): it is removed from the buffer, carried out, its REPLY placed in
the reply slot, and the rotation pointer moved to the tributary after Tn. -/
def State.execute (t : Trib) (r : Request) (act : State → Answer) (s : State) : State :=
  let a := act (s.changePort t Port.takeRequest)
  { a.state.changePort t (Port.placeReply ⟨r.code, r.tag, a.result, a.fields⟩) with pointer := t.next }

/-- The request with which the command `i` of Tn takes place: the request unit's next request is one of Tn and stands
for `i`. With no such request the command does not take place (log 2). -/
def State.serving (s : State) (t : Trib) (i : Instr) : Option Request :=
  match s.nextRequest with
  | some (u, r) => if u = t ∧ r.command t = i then some r else none
  | none => none

/-- The request command `i` of Tn, carried out by `act`. -/
def State.serve (t : Trib) (i : Instr) (act : State → Answer) (s : State) : State :=
  match s.serving t i with
  | some r => s.execute t r act
  | none => s

/-! ### SETUP (R168) -/

/-- Whether a present field satisfies a check; an absent one does. -/
def present {α : Type} (ok : α → Bool) : Option α → Bool
  | some x => ok x
  | none => true

/-- Whether a number lies in a range, both ends included. -/
def within (lo hi n : Nat) : Bool := decide (lo ≤ n ∧ n ≤ hi)

/-- The service list that position codes name: `none` when a code names no normal queue (R128, R168). -/
def serviceListOf (codes : List Byte) : Option (List NormalQueue) := codes.mapM normalQueueOfCode

/-- The six normal queues (R121). -/
def normalQueues : List NormalQueue := [.fwd, .loc .t0, .loc .t1, .loc .t2, .loc .t3, .own]

/-- Whether a service list is in range: 1 to 12 positions, each of the six queues named (R128). -/
def validServiceList (codes : List Byte) : Bool :=
  match serviceListOf codes with
  | some list => within 1 12 list.length && normalQueues.all fun q => decide (q ∈ list)
  | none => false

/-- Whether every present field of a SETUP is in its range (R168). -/
def setupInRange (f : SetupFields) : Bool :=
  present (fun b => within 2 63 b.toNat) f.lapBudget
    && present (fun b => within 1 100 b.toNat) f.beaconInterval
    && present (fun w => within 0 60000 w.toNat) f.claimHold
    && present validServiceList f.serviceList
    && present (fun b => within 1 4 b.toNat) f.urgentBurst
    && present (fun b => within 0 15 b.toNat) f.floorA
    && present (fun b => within 0 15 b.toNat) f.floorB
    && present (fun b => within 1 32 b.toNat) f.dwell
    && present (fun w => within 1 1000 w.toNat) f.qualityPeriod
    && present (fun b => within 1 255 b.toNat) f.qualityThreshold
    && present (fun w => within 0 16383 w.toNat) f.skewLimit

/-- The value of a present field, or the value held. -/
def replaced {n : Nat} (field : Option (BitVec n)) (held : Nat) : Nat :=
  match field with
  | some b => b.toNat
  | none => held

/-- The profile with every present field replaced (R168). -/
def applyFields (f : SetupFields) (p : Profile) : Profile where
  lapBudget := replaced f.lapBudget p.lapBudget
  beaconInterval := replaced f.beaconInterval p.beaconInterval
  claimHold := replaced f.claimHold p.claimHold
  serviceList := (f.serviceList.bind serviceListOf).getD p.serviceList
  urgentBurst := replaced f.urgentBurst p.urgentBurst
  floors := ⟨replaced f.floorA p.floors.a, replaced f.floorB p.floors.b⟩
  dwell := replaced f.dwell p.dwell
  qualityPeriod := replaced f.qualityPeriod p.qualityPeriod
  qualityThreshold := replaced f.qualityThreshold p.qualityThreshold
  skewLimit := replaced f.skewLimit p.skewLimit

/-- An entry with its skew alarm evaluated against a new limit (R80). -/
def Entry.evaluateSkew (limit : Nat) (e : Entry) : Entry :=
  { e with sup := e.sup.map fun sup => { sup with skew := sup.skew.evaluate limit } }

/-- Whether the skew alarm of an entry is set. -/
def Entry.skewAlarm (e : Entry) : Bool :=
  match e.sup with
  | some sup => sup.skew.alarm
  | none => false

/-- The tributary members of the entries whose alarm an evaluation against a limit changes (R80). -/
def skewChangeMembers (limit : Nat) (table : List Entry) (t : Trib) : Bool :=
  table.any fun e => ((e.evaluateSkew limit).skewAlarm != e.skewAlarm) && e.members.tribs.get t

/-- Every supervised entry's alarm evaluated against the profile's skew limit, with SKEW raised to the tributary
members of each entry whose alarm changes (R80). -/
def State.evaluateSkews (s : State) : State :=
  ({ s with table := s.table.map (Entry.evaluateSkew s.profile.skewLimit) }).changePorts fun t p =>
    if skewChangeMembers s.profile.skewLimit s.table t then p.raise .skew else p

end Sys2Proof.Machine
end

