-- ==== Sys2Proof/Machine/LineRequests.lean ====
section
/-! DEFINITION. Meanings: the LINE requests ENABLE, DISABLE and RESTART (R111 to R114, R132). -/

namespace Sys2Proof.Machine

/-- LINE with action ENABLE on a line (R113). -/
def enableEffect (line : Byte) (s : State) : Answer :=
  match lineOfCode line with
  | none => .only s .range
  | some l =>
    if s.bayValid = false then .only s .range
    else match (s.receivers.get l).state with
      | .off => .done ((s.startSearch l (s.floor l)).raiseAll .line)
      | .search => .done s
      | .locked => .done s

/-- LINE_ENABLE (R113). -/
def execLineEnable (t : Trib) (line : Byte) (s : State) : Outcome :=
  .next (s.serve t (.lineEnable t line) (enableEffect line))

/-- LINE with action DISABLE on a line, tested in the order of R112. -/
def disableEffect (line : Byte) (s : State) : Answer :=
  match lineOfCode line with
  | none => .only s .range
  | some l =>
    if (s.receivers.get l).state = .off then .done s
    else if (s.receivers.get l.other).state ≠ .locked then .only s .lastPath
    else .done (s.turnOff l)

/-- LINE_DISABLE (R112). -/
def execLineDisable (t : Trib) (line : Byte) (s : State) : Outcome :=
  .next (s.serve t (.lineDisable t line) (disableEffect line))

/-- LINE with action RESTART on a line (R111). -/
def restartEffect (line : Byte) (s : State) : Answer :=
  match lineOfCode line with
  | none => .only s .range
  | some l =>
    match (s.receivers.get l).state with
    | .off => .only s .refused
    | .search =>
      .done (s.changeReceiver l fun r =>
        { r with level := s.floor l, dwellTimer := some (s.dueIn s.profile.dwell) })
    | .locked => .done (s.departForSearch l (s.floor l))

/-- LINE_RESTART (R111). -/
def execLineRestart (t : Trib) (line : Byte) (s : State) : Outcome :=
  .next (s.serve t (.lineRestart t line) (restartEffect line))

end Sys2Proof.Machine
end

