-- ==== Sys2Proof/Machine/PortEvents.lean ====
section
/-! DEFINITION. Meanings: POWER_ON_RESET and the events of a tributary's front end and of its claim-hold timer (R2,
R35 to R38, R84 to R93, R102). -/

namespace Sys2Proof.Machine

/-- POWER_ON_RESET (R2): every block in its reset state with the sampled straps; the first sample of the contact
inputs is taken (R155). The queue of commands, which is not the part's, is kept. -/
def execPowerOnReset (bay : Byte) (lapsel : BitVec 2) (inputs : Byte) (s : State) : Outcome :=
  .next { State.powerOn bay lapsel inputs with pending := s.pending, freeCount := s.freeCount }

/-- LINK_UP (R84, R37): on a DOWN link, the claim-hold timer stops and Tn's HELD claims return to ACTIVE; on an UP
link nothing changes. -/
def execLinkUp (t : Trib) (s : State) : Outcome :=
  if (s.ports.get t).link = .down then
    .next (({ s with table := s.table.map (Entry.setPublisherState t .active) }).changePort t Port.linkPresent)
  else .next s

/-- LINK_DOWN (R85, R35): on an UP link, the port is emptied, and Tn's claims become HELD with the claim-hold timer
started, or are torn down at once when the claim-hold time is 0; on a DOWN link nothing changes. -/
def execLinkDown (t : Trib) (s : State) : Outcome :=
  if (s.ports.get t).link = .up then
    if s.profile.claimHold = 0 then .next ((s.changePort t Port.linkLost).teardown t)
    else
      .next (({ s with table := s.table.map (Entry.setPublisherState t .held) }).changePort t fun p =>
        { p.linkLost with holdTimer := some (s.dueIn s.profile.claimHold) })
  else .next s

/-- A PUBLISH discarded as unclaimed (R89 rows 1 and 2). -/
def Port.unclaimed (p : Port) : Port :=
  { p with counters := { p.counters with unclaimed := p.counters.unclaimed + 1 } }

/-- A PUBLISH discarded as a clash, with the CLASH report (R89 row 3). -/
def Port.clash (p : Port) : Port :=
  ({ p with counters := { p.counters with clash := p.counters.clash + 1 } }).raise .clash

/-- A PUBLISH stamped (R90, R102). -/
def Port.countIntake (p : Port) : Port :=
  { p with counters := { p.counters with intakes := p.counters.intakes + 1 } }

/-- The egress queue of a copy of an intake of Tn (R91). -/
def intakeQueue (cls : StreamClass) (t : Trib) : QueueName :=
  match cls with
  | .urgent => .urgent
  | .periodic => .normal (.loc t)
  | .general => .normal (.loc t)

/-- The DATA record of the local fan-out (R92). -/
def fanOutRecord (id : StreamId) (seq : SeqNo) (payload : List Byte) : DeliveryRecord :=
  ⟨.data, id, seq, .localFanOut, false, false, none, .localStream, payload⟩

/-- An intake by the publisher (R90 to R92): stamped, two copies offered to the line egresses, and a record offered to
each tributary subscriber. -/
def State.stamp (t : Trib) (index : Byte) (payload : List Byte) (e : Entry) (seq : SeqNo) (s : State) : State :=
  let counted :=
    ({ s with table := changeEntry (s.ownId index) (fun e => some e.intake) s.table }).changePort t Port.countIntake
  (counted.offerBoth (intakeQueue e.cls t) (s.ownFrame e.cls index seq payload)).offerDataTo e.members
    (e.cls == .urgent) (fanOutRecord (s.ownId index) seq payload)

/-- The intake of a good PUBLISH, by the first applicable row of R89. -/
def State.intake (t : Trib) (index : Byte) (payload : List Byte) (s : State) : State :=
  if index = 0 then s.changePort t Port.unclaimed
  else match s.find (s.ownId index) with
    | none => s.changePort t Port.unclaimed
    | some e =>
      match e.publisher with
      | none => s.changePort t Port.unclaimed
      | some p =>
        if p.holder = .trib t then s.stamp t index payload e p.seq else s.changePort t Port.clash

/-- A frame counted malformed (R88). -/
def Port.countMalformed (p : Port) : Port :=
  { p with counters := { p.counters with malformed := p.counters.malformed + 1 } }

/-- A frame counted good (R88). -/
def Port.countGood (p : Port) : Port :=
  { p with counters := { p.counters with good := p.counters.good + 1 } }

/-- TRIBUTARY_FRAME_RECEIVED (R88): a malformed frame is counted, a good PUBLISH goes to intake and a good REQUEST to
the request buffer. A DOWN link delivers no frames (R15), so on it the event does not take place. -/
def execTributaryFrameReceived (t : Trib) (bytes : List Byte) (s : State) : Outcome :=
  if (s.ports.get t).link = .down then .next s
  else match classifyTrib bytes with
    | .malformed => .next (s.changePort t Port.countMalformed)
    | .publish index payload => .next ((s.changePort t Port.countGood).intake t index payload)
    | .request r => .next ((s.changePort t Port.countGood).changePort t (Port.bufferRequest r))

/-- TRIBUTARY_END_OF_TRANSMISSION (R87): of the frame in flight; the event of a frame lost earlier has no effect. -/
def execTributaryEndOfTransmission (t : Trib) (of : Ended) (s : State) : Outcome :=
  match of with
  | .inFlight => .next (s.changePort t Port.endOfTransmission)
  | .lost => .next s

/-- CLAIM_HOLD_EXPIRY (R36, R38): the teardown, with the timer left stopped. A stopped timer does not expire. -/
def execClaimHoldExpiry (t : Trib) (s : State) : Outcome :=
  match (s.ports.get t).holdTimer with
  | some due =>
    .next (((s.advanceTo due).changePort t fun p => { p with holdTimer := none }).teardown t)
  | none => .next s

end Sys2Proof.Machine
end

