-- ==== Sys2Proof/Machine/Snapshots.lean ====
section
/-! DEFINITION. The snapshots of READ as byte strings (R170): the fields in the order in which the rules named in its
table list them (R61, R82, R103, R120, R135, R154, R163, R168). The choices left open are in log 9 and log 11. -/

namespace Sys2Proof.Machine

/-- A 16-bit counter or sequence number, in 2 bytes. -/
def be16 (c : BitVec 16) : List Byte := beBytes 2 c.toNat

/-- A time-base reading, or a time in microseconds, in 4 bytes. -/
def be32 (t : Time) : List Byte := beBytes 4 t.toNat

/-- The time remaining until a timer is due, absent when it is stopped. -/
def remaining (now : Time) (timer : Option Time) : List Byte := optionBytes (fun due => be32 (due - now)) timer

/-- The window fields (R61): state, front, missing list, stale run, and the six counters of R56. -/
def windowBytes (w : Window) (c : EntryCounters) : List Byte :=
  (match w with
    | .empty => [0, 0, 0, 0]
    | .active front missing run => [1] ++ optionBytes be16 (some front) ++ counted be16 missing ++ [BitVec.ofNat 8 run])
    ++ be16 c.accepted ++ be16 c.duplicate ++ be16 c.late ++ be16 c.stale ++ be16 c.lost ++ be16 c.resync

/-- The health and skew fields (R82). -/
def supervisionBytes (now : Time) (sup : Supervision) (c : EntryCounters) : List Byte :=
  [sup.health.code, boolByte sup.live.a, boolByte sup.live.b]
    ++ remaining now sup.silence.a ++ remaining now sup.silence.b
    ++ beBytes 3 sup.p ++ [BitVec.ofNat 8 sup.m] ++ beBytes 4 (sup.p * sup.m)
    ++ optionBytes (beSigned 3) sup.skew.e8 ++ optionBytes (fun e => beSigned 2 (reportedSkew e)) sup.skew.e8
    ++ [boolByte sup.skew.alarm]
    ++ optionBytes (fun pr => be16 pr.seq ++ [lineCode pr.line]) sup.skew.probe
    ++ be16 c.arrivals.a ++ be16 c.arrivals.b

/-- The snapshot of READ STREAM (R170): for a foreign entry the window, health and skew fields, for an own-bay entry
health LOCAL. -/
def streamSnapshot (now : Time) (e : Entry) : List Byte :=
  [e.id.bay, e.id.index, e.cls.code]
    ++ optionBytes (fun p => [p.holder.code, p.state.code]) e.publisher
    ++ optionBytes (fun p => be16 p.seq) e.publisher
    ++ [e.members.bits] ++ be16 e.counters.intakes
    ++ (match e.sup with
      | some sup => windowBytes sup.window e.counters ++ supervisionBytes now sup e.counters
      | none => [ShownHealth.localStream.code])

/-- The receiver's fields of READ LINE (R120). -/
def receiverBytes (now : Time) (floor : Nat) (r : Receiver) : List Byte :=
  [r.state.code, BitVec.ofNat 8 r.level, BitVec.ofNat 8 floor]
    ++ remaining now r.dwellTimer
    ++ optionBytes (fun due => [BitVec.ofNat 8 r.qualityCount] ++ be32 (due - now)) r.qualityTimer
    ++ be16 r.counters.good ++ be16 r.counters.checkFailures ++ be16 r.counters.malformed ++ be16 r.counters.tooLong
    ++ be16 r.counters.unlockedDiscards ++ be16 r.counters.lockAcquisitions ++ be16 r.counters.lockLosses
    ++ be16 r.counters.qualityRelocks

/-- The egress's fields of READ LINE (R135). -/
def egressBytes (isOpen : Bool) (e : Egress) : List Byte :=
  [boolByte isOpen] ++ e.queues.toList.map (fun q => BitVec.ofNat 8 q.length)
    ++ [BitVec.ofNat 8 e.credit, BitVec.ofNat 8 e.position]
    ++ optionBytes (fun f => [f.2.code]) e.inFlight
    ++ e.sent.toList.flatMap be16 ++ e.drops.toList.flatMap be16 ++ be16 e.lineDown ++ be16 e.aborts

/-- The snapshot of READ LINE (R120, R135). -/
def State.lineSnapshot (s : State) (l : Line) : List Byte :=
  receiverBytes s.timeBase (s.profile.floors.get l) (s.receivers.get l) ++ egressBytes (s.isOpen l) (s.egresses.get l)

/-- One direction's fields of READ RING (R154). -/
def directionBytes (y : Line) (r : RingUnit) : List Byte :=
  optionBytes (fun d => be32 d.roundTrip ++ [BitVec.ofNat 8 d.nodes]) (r.measured.get y)
    ++ optionBytes be32 (r.lastReturn.get y)
    ++ [BitVec.ofNat 8 (r.returnAge.get y), BitVec.ofNat 8 (r.outstanding.get y).length]

/-- One line's readings of the roster (R152, R154). -/
def readingBytes (x : Line) (pick : Nat) (roster : List RosterRecord) : List Byte :=
  counted (fun b => [b]) (neighbours x roster)
    ++ optionBytes (fun f => [BitVec.ofNat 8 f.1, f.2]) (farthest x pick roster)
    ++ [BitVec.ofNat 8 (heardOn x roster).length]

/-- One part of a roster record (R154). -/
def partBytes (now : Time) (part : RosterPart) : List Byte :=
  [BitVec.ofNat 8 part.hops] ++ be32 (now - part.heard) ++ be32 (part.expiry - now) ++ [part.reported.code]

/-- A roster record (R154). -/
def recordBytes (now : Time) (r : RosterRecord) : List Byte :=
  [r.bay] ++ optionBytes (partBytes now) r.parts.a ++ optionBytes (partBytes now) r.parts.b

/-- The snapshot of READ RING (R154). The two picks are free values for the farthest bay on lines A and B (log 10). -/
def ringSnapshot (now : Time) (pickA pickB : Nat) (r : RingUnit) : List Byte :=
  [r.state.code] ++ be16 r.beaconSeq ++ directionBytes .a r ++ directionBytes .b r
    ++ readingBytes .a pickA r.roster ++ readingBytes .b pickB r.roster
    ++ counted (recordBytes now) r.roster
    ++ be16 r.counters.returnedOwn ++ be16 r.counters.lapExpired ++ be16 r.counters.passed
    ++ be16 r.counters.bayClash ++ be16 r.counters.beaconRejects ++ be16 r.counters.rosterFull

/-- The counters of a tributary port in the order of R102. -/
def PortCounters.bytes (c : PortCounters) : List Byte :=
  be16 c.good ++ be16 c.malformed ++ be16 c.intakes ++ be16 c.unclaimed ++ be16 c.clash ++ be16 c.overrun
    ++ be16 c.discarded ++ be16 c.delivered ++ be16 c.aborts ++ be16 c.linkLosses ++ be16 c.requestOverrun

/-- A claim listed by READ TRIBUTARY: index, class and sequence counter (R103). -/
def claimBytes (e : Entry) : List Byte :=
  [e.id.index, e.cls.code] ++ be16 ((e.publisher.map fun p => p.seq).getD 0)

/-- The snapshot of READ TRIBUTARY (R103). -/
def State.portSnapshot (s : State) (t : Trib) : List Byte :=
  let p := s.ports.get t
  [p.link.code, BitVec.ofNat 8 p.urgentQ.length, BitVec.ofNat 8 p.normalQ.length, boolByte p.report]
    ++ beBytes 2 p.reports.toNat ++ p.counters.bytes
    ++ counted claimBytes (s.table.filter fun e => e.publishedBy (.trib t))
    ++ counted (fun e => [e.id.bay, e.id.index]) (s.table.filter fun e => e.members.has (.trib t))

/-- The snapshot of READ PROFILE (R168, R170). -/
def State.profileSnapshot (s : State) : List Byte :=
  let p := s.profile
  [BitVec.ofNat 8 p.lapBudget, BitVec.ofNat 8 p.beaconInterval] ++ beBytes 2 p.claimHold
    ++ counted (fun q => [q.code]) p.serviceList
    ++ [BitVec.ofNat 8 p.urgentBurst, BitVec.ofNat 8 p.floors.a, BitVec.ofNat 8 p.floors.b, BitVec.ofNat 8 p.dwell]
    ++ beBytes 2 p.qualityPeriod ++ [BitVec.ofNat 8 p.qualityThreshold] ++ beBytes 2 p.skewLimit
    ++ [s.ownBay, boolByte s.bayValid]

/-- A binding, as a MIRROR request carries it (R163, R167). -/
def Binding.bytes (b : Binding) : List Byte :=
  [b.bay, BitVec.ofNat 8 b.bit.val, b.policy.code, boolByte b.safeLevel]

/-- A source record (R163). -/
def Source.bytes (r : Source) : List Byte :=
  [r.bay, r.health.code] ++ optionBytes (fun d => [d.states, d.mask]) r.data

/-- The snapshot of READ MIRROR (R163). The mask values, a level for each input (R156), go as the one byte of MIRROR
(R167), bit n for INn, and not as a byte for each input (DESIGN CHOICE, log 9). -/
def mirrorSnapshot (now : Time) (m : Mirror) : List Byte :=
  m.inputs.toList.flatMap (fun c => [boolByte c.accepted, BitVec.ofNat 8 c.run])
    ++ [BitVec.ofNat 8 m.debounce, boolByte m.publish, m.enableMask, m.maskValues] ++ beBytes 2 m.refresh
    ++ [m.changeCounter, m.changedSet] ++ remaining now m.refreshTimer
    ++ m.outputs.toList.flatMap (fun o => optionBytes Binding.bytes o.binding ++ [boolByte o.level])
    ++ counted Source.bytes m.sources
    ++ be16 m.counters.acceptedChanges ++ be16 m.counters.changeFrames ++ be16 m.counters.refreshFrames
    ++ be16 m.counters.requestFrames

end Sys2Proof.Machine
end

