-- ==== Sys2Proof/Machine/ReadRequests.lean ====
section
/-! DEFINITION. Meanings: the READ requests (R170). A READ changes nothing of the state it reads. -/

namespace Sys2Proof.Machine

/-- READ STREAM (R170): RANGE, NOT_HELD, or the snapshot of the entry. -/
def readStreamEffect (id : StreamId) (s : State) : Answer :=
  if s.bayRefused id.bay ∨ 63 < id.index.toNat then .only s .range
  else match s.find id with
    | none => .only s .notHeld
    | some e => ⟨s, .done, streamSnapshot s.timeBase e⟩

/-- READ_STREAM (R170). -/
def execReadStream (t : Trib) (bay index : Byte) (s : State) : Outcome :=
  .next (s.serve t (.readStream t bay index) (readStreamEffect ⟨bay, index⟩))

/-- READ LINE (R170): RANGE, or the snapshot of the line. -/
def readLineEffect (line : Byte) (s : State) : Answer :=
  match lineOfCode line with
  | none => .only s .range
  | some l => ⟨s, .done, s.lineSnapshot l⟩

/-- READ_LINE (R120, R135, R170). -/
def execReadLine (t : Trib) (line : Byte) (s : State) : Outcome :=
  .next (s.serve t (.readLine t line) (readLineEffect line))

/-- READ RING (R154, R170): the snapshot, with two free values for the farthest bays (log 10). -/
def readRingEffect (s : State) : Answer :=
  ⟨{ s with freeCount := s.freeCount + 2 }, .done,
    ringSnapshot s.timeBase (Config.freePick s.freeCount) (Config.freePick (s.freeCount + 1)) s.ring⟩

/-- READ_RING (R154). -/
def execReadRing (t : Trib) (s : State) : Outcome :=
  .next (s.serve t (.readRing t) readRingEffect)

/-- READ_TRIBUTARY (R103): the requester's own port. -/
def execReadTributary (t : Trib) (s : State) : Outcome :=
  .next (s.serve t (.readTributary t) fun s => ⟨s, .done, s.portSnapshot t⟩)

/-- READ_PROFILE (R170). -/
def execReadProfile (t : Trib) (s : State) : Outcome :=
  .next (s.serve t (.readProfile t) fun s => ⟨s, .done, s.profileSnapshot⟩)

/-- READ_MIRROR (R163). -/
def execReadMirror (t : Trib) (s : State) : Outcome :=
  .next (s.serve t (.readMirror t) fun s => ⟨s, .done, mirrorSnapshot s.timeBase s.mirror⟩)

end Sys2Proof.Machine
end

