-- ==== Sys2Proof/Machine/SettingRequests.lean ====
section
/-! DEFINITION. Meanings: SETUP (R168), MIRROR (R169), CLEAR (R172) and REQUEST_UNKNOWN (R166). -/

namespace Sys2Proof.Machine

/-! ### SETUP -/

/-- A receiver's part of a SETUP, when the floor of its line has changed (R110). -/
def State.floorIf (l : Line) (changed : Bool) (s : State) : State := if changed then s.floorChanged l else s

/-- The application of a SETUP in range (R168): the profile, the egresses (R128), the floors (R110), the skew alarms
(R80), and PROFILE to the other UP tributaries. -/
def State.applySetup (t : Trib) (f : SetupFields) (s : State) : State :=
  let p := applyFields f s.profile
  let newList := f.serviceList.isSome
  let newBurst := f.urgentBurst.map BitVec.toNat
  let applied := { s with
    profile := p
    egresses := s.egresses.map (Egress.setup newList newBurst) }
  let moved := (applied.floorIf .a (p.floors.a != s.profile.floors.a)).floorIf .b (p.floors.b != s.profile.floors.b)
  let judged := if p.skewLimit ≠ s.profile.skewLimit then moved.evaluateSkews else moved
  judged.raiseProfile t

/-- SETUP of Tn (R168): RANGE as a whole, or every present field applied. -/
def setupEffect (t : Trib) (f : SetupFields) (s : State) : Answer :=
  if setupInRange f then .done (s.applySetup t f) else .only s .range

/-- SETUP (R168). -/
def execSetup (t : Trib) (fields : SetupFields) (s : State) : Outcome :=
  .next (s.serve t (.setup t fields) (setupEffect t fields))

/-! ### MIRROR -/

/-- A binding in range (R160, R167): a source bay of 1 to 254 other than the own bay, a bit of 0 to 7, and a policy
and a safe level in their lists. -/
def bindingOf (ownBay : Byte) (f : BindingFields) : Option Binding :=
  if validBay f.bay ∧ f.bay ≠ ownBay then
    (bitOfCode f.bit).bind fun bit =>
      (policyOfCode f.policy).bind fun policy =>
        (levelOfCode f.safe).map fun safe => ⟨f.bay, bit, policy, safe⟩
  else none

/-- Whether a binding field of a MIRROR request is in range. -/
def bindingInRange (ownBay : Byte) : Option BindingFields → Bool
  | none => true
  | some f => (bindingOf ownBay f).isSome

/-- Whether every present field of a MIRROR is in range (R169 step 1). -/
def mirrorInRange (ownBay : Byte) (f : MirrorFields) : Bool :=
  present (fun b => (levelOfCode b).isSome) f.publish
    && present (fun b => within 1 16 b.toNat) f.debounce
    && present (fun w => within 10 1000 w.toNat) f.refresh
    && f.bindings.toList.all (present (bindingInRange ownBay))

/-- The binding of an output after a MIRROR request: the one it gives, or the one held. -/
def newBinding (ownBay : Byte) (named : Option (Option BindingFields)) (held : Option Binding) : Option Binding :=
  match named with
  | some b => b.bind (bindingOf ownBay)
  | none => held

/-- The outputs with the bindings of a MIRROR request and the levels they had. -/
def rebound (ownBay : Byte) (f : MirrorFields) (outputs : Oct ContactOutput) : Oct ContactOutput :=
  Oct.ofFn fun i =>
    { outputs.get i with binding := newBinding ownBay (f.bindings.get i) (outputs.get i).binding }

/-- Whether publishing is on after a MIRROR request. -/
def publishAfter (f : MirrorFields) (held : Bool) : Bool :=
  match f.publish with
  | some b => b == 1
  | none => held

/-- The bays a MIRROR request newly binds: bound after it and not before (R34). -/
def newlyBound (before after : List Byte) : List Byte := after.filter fun b => decide (b ∉ before)

/-- New slots a MIRROR request needs (R34): one for each newly bound bay that has no entry, and one to turn publishing
on. -/
def slotsNeeded (before after : List Byte) (turnsOn : Bool) (table : List Entry) : Nat :=
  ((newlyBound before after).filter fun b => findEntry ⟨b, 0⟩ table == none).length + turnsOn.toNat

/-- The table after the membership changes of a MIRROR request (R34): MIRROR joins, or presents its values for, every
bay bound after it, and leaves every bay no longer bound. -/
def mirrorMemberships (before after : List Byte) (refresh : Nat) (table : List Entry) : List Entry :=
  let joined := after.foldl (fun table b => joinTable false ⟨b, 0⟩ .mirror (1000 * refresh) 3 table) table
  (newlyBound after before).foldl (fun table b => leaveTable ⟨b, 0⟩ .mirror table) joined

/-- The table after a MIRROR request turns publishing on or off (R33). -/
def mirrorPublishing (id : StreamId) (before after : Bool) (table : List Entry) : List Entry :=
  match before, after with
  | false, true => insertEntry (Entry.make id .urgent (some ⟨.mirror, .active, 0⟩) Members.empty none) table
  | true, false => changeEntry id Entry.unpublish table
  | true, true => table
  | false, false => table

/-- A source record placed among the others, in ascending bay order. -/
def insertSource (r : Source) (sources : List Source) : List Source :=
  sources.orderedInsert (fun x y => x.bay.toNat ≤ y.bay.toNat) r

/-- The health that the entry of a bay's contact stream holds (R160). -/
def entryHealth (bay : Byte) (table : List Entry) : Health :=
  match (findEntry ⟨bay, 0⟩ table).bind fun e => e.sup with
  | some sup => sup.health
  | none => .waiting

/-- The source records after a MIRROR request (R160): discarded for a bay no longer bound, made with no data and the
entry's health for a newly bound one. -/
def mirrorSources (before after : List Byte) (table : List Entry) (sources : List Source) : List Source :=
  (newlyBound before after).foldl (fun rs b => insertSource ⟨b, entryHealth b table, none⟩ rs)
    (sources.filter fun r => decide (r.bay ∈ after))

/-- The level that a new binding gives an output (R162). -/
def boundLevel (sources : List Source) : Option Binding → Bool
  | none => false
  | some b =>
    match (findSource b.bay sources).bind fun r => r.data with
    | some d => b.levelFrom d b.safeLevel
    | none => b.safeLevel

/-- The outputs after a MIRROR request (R162): a named output whose binding changes is evaluated anew, and every other
output keeps its level. -/
def mirrorOutputs (ownBay : Byte) (f : MirrorFields) (sources : List Source) (outputs : Oct ContactOutput) :
    Oct ContactOutput :=
  Oct.ofFn fun i =>
    let b := newBinding ownBay (f.bindings.get i) (outputs.get i).binding
    if b = (outputs.get i).binding then outputs.get i else ⟨b, boundLevel sources b⟩

/-- The mirror's settings after a MIRROR request (R155, R156): the changed set is emptied when publishing is turned
on and loses the inputs that leave the enable mask, and the refresh timer stops when publishing is off. -/
def Mirror.settings (f : MirrorFields) (m : Mirror) : Mirror :=
  let on := publishAfter f m.publish
  let mask := f.enableMask.getD m.enableMask
  { m with
    debounce := replaced f.debounce m.debounce
    publish := on
    enableMask := mask
    maskValues := f.maskValues.getD m.maskValues
    refresh := replaced f.refresh m.refresh
    changedSet := if on && !m.publish then 0 else m.changedSet &&& mask
    refreshTimer := if on then m.refreshTimer else none }

/-- Whether a MIRROR request builds a request frame (R157): publishing is on after it, and it was turned on or the
enable mask or the mask values change. -/
def requestFrameDue (before after : Mirror) : Bool :=
  after.publish && (!before.publish || after.enableMask != before.enableMask || after.maskValues != before.maskValues)

/-- The application of a MIRROR request in range for which there are slots (R169). -/
def State.applyMirror (t : Trib) (f : MirrorFields) (s : State) : State :=
  let set := s.mirror.settings f
  let before := boundBays s.mirror.outputs
  let after := boundBays (rebound s.ownBay f s.mirror.outputs)
  let table := mirrorPublishing (s.ownId 0) s.mirror.publish set.publish
    (mirrorMemberships before after set.refresh s.table)
  let sources := mirrorSources before after table s.mirror.sources
  let applied := { s with
    table := table
    mirror := { set with sources := sources, outputs := mirrorOutputs s.ownBay f sources s.mirror.outputs } }
  let framed := if requestFrameDue s.mirror set then applied.contactFrame .request else applied
  framed.raiseProfile t

/-- MIRROR of Tn, tested in the order of R169. -/
def mirrorEffect (t : Trib) (f : MirrorFields) (s : State) : Answer :=
  if mirrorInRange s.ownBay f = false then .only s .range
  else if freeSlots s.table <
      slotsNeeded (boundBays s.mirror.outputs) (boundBays (rebound s.ownBay f s.mirror.outputs))
        (publishAfter f s.mirror.publish && !s.mirror.publish) s.table then .only s .full
  else .done (s.applyMirror t f)

/-- MIRROR (R169). -/
def execMirror (t : Trib) (fields : MirrorFields) (s : State) : Outcome :=
  .next (s.serve t (.mirror t fields) (mirrorEffect t fields))

/-! ### CLEAR and REQUEST_UNKNOWN -/

/-- CLEAR (R172). -/
def execClear (t : Trib) (kinds : BitVec 16) (s : State) : Outcome :=
  .next (s.serve t (.clear t kinds) fun s => .done (s.changePort t (Port.clearReports kinds)))

/-- The answer to a request that stands for no other row (R166): UNKNOWN, but RANGE for a LINE request whose action
names none of the three (R111 section 6.3, R167; log 8). -/
def unknownResult (code : Byte) (fields : List Byte) : ResultCode :=
  if code = 6 ∧ fields.length = 2 then .range else .unknown

/-- REQUEST_UNKNOWN (R166). -/
def execRequestUnknown (t : Trib) (code : Byte) (fields : List Byte) (s : State) : Outcome :=
  .next (s.serve t (.requestUnknown t code fields) fun s => .only s (unknownResult code fields))

end Sys2Proof.Machine
end

