-- ==== Sys2Proof/Machine/StreamRequests.lean ====
section
/-! DEFINITION. Meanings: the requests on the stream table, CLAIM, RELEASE, JOIN, LEAVE and DETACH (R22, R24, R26, R31,
R39). -/

namespace Sys2Proof.Machine

/-- Whether a claim or release names an index out of range: 0 or above 63 (R22, R24). -/
def claimIndexRefused (index : Byte) : Bool := decide (index = 0 ∨ 63 < index.toNat)

/-- CLAIM(index, class) of Tn against own-bay/index (R22, R23, R17). -/
def claimEffect (t : Trib) (index cls : Byte) (s : State) : Answer :=
  match classOfCode cls with
  | none => .only s .range
  | some c =>
    if claimIndexRefused index then .only s .range
    else match s.find (s.ownId index) with
      | none =>
        if freeSlots s.table = 0 then .only s .full
        else
          .done { s with
            table := insertEntry
              (Entry.make (s.ownId index) c (some ⟨.trib t, .active, 0⟩) Members.empty none) s.table }
      | some e =>
        if e.members.has (.trib t) then .only s .range
        else match e.publisher with
          | none =>
            .done { s with
              table := changeEntry (s.ownId index)
                (fun e => some { e with publisher := some ⟨.trib t, .active, 0⟩, cls := c }) s.table }
          | some p =>
            if p.holder = .trib t then .done s
            else match p.state with
              | .held => .only s .held
              | .active => .only s .taken

/-- CLAIM (R22). -/
def execClaim (t : Trib) (index cls : Byte) (s : State) : Outcome :=
  .next (s.serve t (.claim t index cls) (claimEffect t index cls))

/-- RELEASE(index) of Tn (R24). -/
def releaseEffect (t : Trib) (index : Byte) (s : State) : Answer :=
  if claimIndexRefused index then .only s .range
  else match s.find (s.ownId index) with
    | none => .only s .notHeld
    | some e =>
      if e.publishedBy (.trib t) then
        .done { s with table := changeEntry (s.ownId index) Entry.unpublish s.table }
      else .only s .notHeld

/-- RELEASE (R24). -/
def execRelease (t : Trib) (index : Byte) (s : State) : Outcome :=
  .next (s.serve t (.release t index) (releaseEffect t index))

/-- Whether a JOIN of Tn is answered RANGE (R26, test 1). -/
def joinRefused (t : Trib) (id : StreamId) (p m : Nat) (s : State) : Bool :=
  s.bayRefused id.bay || decide (63 < id.index.toNat) || !within 50 16777215 p || !within 2 15 m
    || (id.bay == s.ownBay && (((s.find id).map fun e => e.publishedBy (.trib t)) == some true))
    || (id.bay == s.ownBay && id.index == 0)

/-- JOIN(bay, index, P, M) of Tn (R26 to R30). -/
def joinEffect (t : Trib) (id : StreamId) (p m : Nat) (s : State) : Answer :=
  if joinRefused t id p m s then .only s .range
  else if s.find id = none ∧ freeSlots s.table = 0 then .only s .full
  else .done { s with table := joinTable (id.bay == s.ownBay) id (.trib t) p m s.table }

/-- JOIN (R26). -/
def execJoin (t : Trib) (bay index : Byte) (p : BitVec 24) (m : Byte) (s : State) : Outcome :=
  .next (s.serve t (.join t bay index p m) (joinEffect t ⟨bay, index⟩ p.toNat m.toNat))

/-- LEAVE(bay, index) of Tn (R31, R32). -/
def leaveEffect (t : Trib) (id : StreamId) (s : State) : Answer :=
  if s.bayRefused id.bay ∨ 63 < id.index.toNat then .only s .range
  else match s.find id with
    | none => .only s .notHeld
    | some e =>
      if e.members.has (.trib t) then .done { s with table := leaveTable id (.trib t) s.table }
      else .only s .notHeld

/-- LEAVE (R31). -/
def execLeave (t : Trib) (bay index : Byte) (s : State) : Outcome :=
  .next (s.serve t (.leave t bay index) (leaveEffect t ⟨bay, index⟩))

/-- DETACH (R39, R100): the teardown, and then the reply DONE. -/
def execDetach (t : Trib) (s : State) : Outcome :=
  .next (s.serve t (.detach t) fun s => .done (s.teardown t))

end Sys2Proof.Machine
end

