-- ==== Sys2Proof/Machine/TimerEvents.lean ====
section
/-! DEFINITION. Meanings: the beacon timer (R141), the expiry of a roster part (R151), the expiry of a silence timer
(R68), the sample event of the contact inputs (R155) and the refresh timer (R157). A timer that is stopped does not
expire: its command then changes nothing (log 3). -/

namespace Sys2Proof.Machine

/-- BEACON_TIMER_EXPIRY (R141): the timer is restarted with the beacon interval and an emission is performed. -/
def execBeaconTimerExpiry (s : State) : Outcome :=
  match s.ring.beaconTimer with
  | some due =>
    let s := s.advanceTo due
    .next (s.changeRing fun r => { r with beaconTimer := some (s.dueIn s.profile.beaconInterval) }).emitBeacon
  | none => .next s

/-- ROSTER_EXPIRY (R151): the part is removed, and its record when it then has neither part. -/
def execRosterExpiry (bay : Byte) (l : Line) (s : State) : Outcome :=
  match findPart bay l s.ring.roster with
  | some part => .next ((s.advanceTo part.expiry).changeRing fun r => { r with roster := removePart bay l r.roster })
  | none => .next s

/-- SILENCE_TIMER_EXPIRY (R68, R69). -/
def execSilenceTimerExpiry (bay index : Byte) (l : Line) (s : State) : Outcome :=
  match s.find ⟨bay, index⟩ with
  | some e =>
    match e.sup with
    | some sup =>
      match sup.silence.get l with
      | some due => .next ((s.advanceTo due).silenceExpire ⟨bay, index⟩ l e sup)
      | none => .next s
    | none => .next s
  | none => .next s

/-- CONTACT_SAMPLE (R155): the sample event due next. -/
def execContactSample (levels : Byte) (s : State) : Outcome :=
  .next ((s.advanceTo s.mirror.sampleDue).contactSample levels)

/-- REFRESH_TIMER_EXPIRY (R157): a refresh frame is built while publishing is on. -/
def execRefreshTimerExpiry (s : State) : Outcome :=
  match s.mirror.refreshTimer with
  | some due => if s.mirror.publish then .next ((s.advanceTo due).contactFrame .refresh) else .next s
  | none => .next s

end Sys2Proof.Machine
end

