-- ==== Sys2Proof/Machine/Dispatch.lean ====
section
/-! DEFINITION. The meaning of every command: one arm for each constructor of Instr. -/

namespace Sys2Proof.Machine

def exec (i : Instr) (s : State) : Host.Outcome State Fault Refusal :=
  match i with
  | .powerOnReset bay lapsel inputs => Sys2Proof.Machine.execPowerOnReset bay lapsel inputs s
  | .linkUp t => Sys2Proof.Machine.execLinkUp t s
  | .linkDown t => Sys2Proof.Machine.execLinkDown t s
  | .tributaryFrameReceived t bytes => Sys2Proof.Machine.execTributaryFrameReceived t bytes s
  | .tributaryEndOfTransmission t of => Sys2Proof.Machine.execTributaryEndOfTransmission t of s
  | .claimHoldExpiry t => Sys2Proof.Machine.execClaimHoldExpiry t s
  | .claim t index cls => Sys2Proof.Machine.execClaim t index cls s
  | .release t index => Sys2Proof.Machine.execRelease t index s
  | .join t bay index p m => Sys2Proof.Machine.execJoin t bay index p m s
  | .leave t bay index => Sys2Proof.Machine.execLeave t bay index s
  | .detach t => Sys2Proof.Machine.execDetach t s
  | .lineEnable t line => Sys2Proof.Machine.execLineEnable t line s
  | .lineDisable t line => Sys2Proof.Machine.execLineDisable t line s
  | .lineRestart t line => Sys2Proof.Machine.execLineRestart t line s
  | .setup t fields => Sys2Proof.Machine.execSetup t fields s
  | .mirror t fields => Sys2Proof.Machine.execMirror t fields s
  | .readStream t bay index => Sys2Proof.Machine.execReadStream t bay index s
  | .readLine t line => Sys2Proof.Machine.execReadLine t line s
  | .readRing t => Sys2Proof.Machine.execReadRing t s
  | .readTributary t => Sys2Proof.Machine.execReadTributary t s
  | .readProfile t => Sys2Proof.Machine.execReadProfile t s
  | .readMirror t => Sys2Proof.Machine.execReadMirror t s
  | .clear t kinds => Sys2Proof.Machine.execClear t kinds s
  | .requestUnknown t code fields => Sys2Proof.Machine.execRequestUnknown t code fields s
  | .lockAcquired l => Sys2Proof.Machine.execLockAcquired l s
  | .lockLost l => Sys2Proof.Machine.execLockLost l s
  | .dwellExpiry l => Sys2Proof.Machine.execDwellExpiry l s
  | .qualityPeriodExpiry l => Sys2Proof.Machine.execQualityPeriodExpiry l s
  | .lineFrameReceived l bytes => Sys2Proof.Machine.execLineFrameReceived l bytes s
  | .lineEndOfTransmission l of => Sys2Proof.Machine.execLineEndOfTransmission l of s
  | .beaconTimerExpiry => Sys2Proof.Machine.execBeaconTimerExpiry s
  | .rosterExpiry bay l => Sys2Proof.Machine.execRosterExpiry bay l s
  | .silenceTimerExpiry bay index l => Sys2Proof.Machine.execSilenceTimerExpiry bay index l s
  | .contactSample levels => Sys2Proof.Machine.execContactSample levels s
  | .refreshTimerExpiry => Sys2Proof.Machine.execRefreshTimerExpiry s

end Sys2Proof.Machine
end

