-- ==== Sys2Proof/Machine/Idle.lean ====
section
/-! DEFINITION. What the part does by itself when no command waits (log 4): the step that is due now, a request the
request unit takes (R165) or a timer whose due reading is reached, and otherwise one microsecond of the time base
(R7). The order of steps due together is the model's choice. -/

namespace Sys2Proof.Machine

/-- A command when its timer runs and its due reading is reached. -/
def dueCommand (now : Time) (timer : Option Time) (i : Instr) : Option Instr :=
  match timer with
  | some due => if reached now due then some i else none
  | none => none

/-- The silence timers of an entry that are due. -/
def dueSilence (now : Time) (e : Entry) : List (Option Instr) :=
  match e.sup with
  | some sup =>
    [dueCommand now sup.silence.a (.silenceTimerExpiry e.id.bay e.id.index .a),
      dueCommand now sup.silence.b (.silenceTimerExpiry e.id.bay e.id.index .b)]
  | none => []

/-- The parts of a roster record that are due. -/
def dueRoster (now : Time) (r : RosterRecord) : List (Option Instr) :=
  [dueCommand now (r.parts.a.map fun p => p.expiry) (.rosterExpiry r.bay .a),
    dueCommand now (r.parts.b.map fun p => p.expiry) (.rosterExpiry r.bay .b)]

/-- The steps of the part's own that could be taken now, in the order the model takes them: a request, then the
timers of the tributaries, the lines, the streams, the ring unit and the contact mirror. -/
def State.ownSteps (s : State) : List (Option Instr) :=
  [s.nextRequest.map fun r => r.2.command r.1]
    ++ Trib.all.map (fun t => dueCommand s.timeBase (s.ports.get t).holdTimer (.claimHoldExpiry t))
    ++ [dueCommand s.timeBase s.receivers.a.dwellTimer (.dwellExpiry .a),
      dueCommand s.timeBase s.receivers.b.dwellTimer (.dwellExpiry .b),
      dueCommand s.timeBase s.receivers.a.qualityTimer (.qualityPeriodExpiry .a),
      dueCommand s.timeBase s.receivers.b.qualityTimer (.qualityPeriodExpiry .b)]
    ++ s.table.flatMap (dueSilence s.timeBase)
    ++ [dueCommand s.timeBase s.ring.beaconTimer .beaconTimerExpiry]
    ++ s.ring.roster.flatMap (dueRoster s.timeBase)
    ++ [dueCommand s.timeBase (some s.mirror.sampleDue) (.contactSample s.inPins),
      dueCommand s.timeBase s.mirror.refreshTimer .refreshTimerExpiry]

/-- The next step of the part's own, if one could be taken now. -/
def State.ownStep (s : State) : Option Instr := s.ownSteps.findSome? id

/-- One microsecond of the time base (R7). -/
def State.tick (s : State) : State := { s with timeBase := s.timeBase + 1 }

end Sys2Proof.Machine
end

