-- ==== Sys2Proof/Machine/Step.lean ====
section
/-! DEFINITION. One step: the command at the front of the queue, or, when none waits, what the part does by itself. -/

namespace Sys2Proof.Machine

/-- One step (logs 2 and 4): the command at the front of the queue is carried out with the queue's rest. With no
command waiting, the part takes the step of its own that is due, or counts one microsecond. -/
def step (s : State) : Host.Outcome State Fault Refusal :=
  match s.pending with
  | i :: rest => exec i { s with pending := rest }
  | [] =>
    match s.ownStep with
    | some i => exec i s
    | none => .next s.tick

/-- The state with the command that a word spells put at the front of its queue; unchanged where the word spells none,
which is every word. -/
def State.withFetchWord (s : State) (nbits w : Nat) : State :=
  match decodeTableWord nbits w with
  | some i => { s with pending := i :: s.pending }
  | none => s

end Sys2Proof.Machine
end

