-- ==== Sys2Proof/Safety.lean ====
section
/-! DEFINITION. What a legal state of each block is, in the manual's terms. Each predicate holds at reset and is meant
to be kept by every step; none of them is used by the machine. -/

namespace Sys2Proof.Machine

/-! ### Tributary ports -/

/-- The bounds of a port's queues and request buffer (R94, R164). -/
def PortBounded (p : Port) : Prop :=
  p.urgentQ.length ≤ 8 ∧ p.normalQ.length ≤ 32 ∧ p.requests.length ≤ 2

/-- A DOWN link's port holds nothing and accepts nothing (R85, R86). -/
def DownEmpty (p : Port) : Prop :=
  p.link = .down →
    p.urgentQ = [] ∧ p.normalQ = [] ∧ p.requests = [] ∧ p.reply = none ∧ p.report = false ∧ p.reports = 0
      ∧ p.inFlight = none

/-- A free transmitter has nothing to send (R98). -/
def FreeIdle (p : Port) : Prop :=
  p.free = true → p.urgentQ = [] ∧ p.reply = none ∧ p.report = false ∧ p.normalQ = []

/-- A legal port: bounded, empty when DOWN, idle when free, with no REPORT for an empty set (R172) and no claim-hold
timer while UP (R39). -/
structure PortLegal (p : Port) : Prop where
  bounded : PortBounded p
  downEmpty : DownEmpty p
  freeIdle : FreeIdle p
  reportPending : p.report = true → p.reports ≠ 0
  upUntimed : p.link = .up → p.holdTimer = none

/-- Every port is legal. -/
def PortsLegal (s : State) : Prop := ∀ t : Trib, PortLegal (s.ports.get t)

/-! ### Profile and lines -/

/-- Every profile field is in its range (R168, R121, R128). -/
structure ProfileLegal (p : Profile) : Prop where
  lapBudget : 2 ≤ p.lapBudget ∧ p.lapBudget ≤ 63
  beaconInterval : 1 ≤ p.beaconInterval ∧ p.beaconInterval ≤ 100
  claimHold : p.claimHold ≤ 60000
  serviceList : 6 ≤ p.serviceList.length ∧ p.serviceList.length ≤ 12
  named : ∀ q : NormalQueue, q ∈ p.serviceList
  urgentBurst : 1 ≤ p.urgentBurst ∧ p.urgentBurst ≤ 4
  floors : ∀ l : Line, p.floors.get l ≤ 15
  dwell : 1 ≤ p.dwell ∧ p.dwell ≤ 32
  qualityPeriod : 1 ≤ p.qualityPeriod ∧ p.qualityPeriod ≤ 1000
  qualityThreshold : 1 ≤ p.qualityThreshold ∧ p.qualityThreshold ≤ 255
  skewLimit : p.skewLimit ≤ 16383

/-- A legal receiver under its floor (R104, R105): the level, the timers of its state, and a quality count of 0
outside LOCKED. -/
structure ReceiverLegal (floor : Nat) (r : Receiver) : Prop where
  level : r.level ≤ 15
  searchLevel : r.state = .search → floor ≤ r.level
  dwell : r.dwellTimer.isSome = true ↔ r.state = .search
  quality : r.qualityTimer.isSome = true ↔ r.state = .locked
  count : r.state ≠ .locked → r.qualityCount = 0
  countBound : r.qualityCount ≤ 255

/-- Every receiver is legal, and OFF while the own bay is invalid (R114). -/
def ReceiversLegal (s : State) : Prop :=
  (∀ l : Line, ReceiverLegal (s.floor l) (s.receivers.get l))
    ∧ (s.bayValid = false → ∀ l : Line, (s.receivers.get l).state = .off)

/-- A legal egress (R121 to R123, R125): no queue above its capacity, nothing queued while it is closed or its
transmitter is free, the credit at most U and the pointer within the service list. -/
structure EgressLegal (isOpen : Bool) (p : Profile) (e : Egress) : Prop where
  capacity : ∀ q : QueueName, (e.queues.get q).length ≤ q.capacity
  closedEmpty : isOpen = false → e.queues = noFrames
  freeIdle : e.inFlight = none → e.queues = noFrames
  credit : e.credit ≤ p.urgentBurst
  position : e.position < p.serviceList.length

/-- Every egress is legal. -/
def EgressesLegal (s : State) : Prop := ∀ l : Line, EgressLegal (s.isOpen l) s.profile (s.egresses.get l)

/-! ### Supervision -/

/-- A legal window (R40): at most 31 distinct missing numbers, each behind the front by 1 to 31, and a stale run of 0
to 3. -/
def WindowLegal : Window → Prop
  | .empty => True
  | .active front missing run =>
    missing.Nodup ∧ missing.length ≤ 31 ∧ run ≤ 3
      ∧ ∀ n ∈ missing, 1 ≤ seqDistance n front ∧ seqDistance n front ≤ 31

/-- A legal skew record (R76, R79): the accumulator within its range, the probe naming the window's front, and no
alarm while the accumulator is unset. -/
structure SkewLegal (w : Window) (sk : Skew) : Prop where
  range : ∀ e ∈ sk.e8, -131064 ≤ e ∧ e ≤ 131064
  front : ∀ pr ∈ sk.probe, ∃ missing run, w = .active pr.seq missing run
  unset : sk.e8 = none → sk.alarm = false

/-- Legal records of a supervised entry: P and M in range (R16), the window and the health in agreement (R42), a timer
running exactly when its line is live (R64), and the health that the live flags give (R63). -/
structure SupervisionLegal (sup : Supervision) : Prop where
  period : 50 ≤ sup.p ∧ sup.p ≤ 16777215
  multiplier : 2 ≤ sup.m ∧ sup.m ≤ 15
  window : WindowLegal sup.window
  skew : SkewLegal sup.window sup.skew
  agree : sup.window = .empty ↔ sup.health = .waiting ∨ sup.health = .lost
  timers : ∀ x : Line, (sup.silence.get x).isSome = sup.live.get x
  heard : sup.health ≠ .waiting → sup.health = healthOf sup.live
  unheard : sup.health = .waiting → sup.live = ⟨false, false⟩

/-- Every supervised entry's records are legal. -/
def SupervisionsLegal (s : State) : Prop := ∀ e ∈ s.table, ∀ sup ∈ e.sup, SupervisionLegal sup

/-- While the skew limit is 0 no alarm is set, and otherwise every alarm is what an evaluation gives (R80). -/
def AlarmsEvaluated (s : State) : Prop :=
  ∀ e ∈ s.table, ∀ sup ∈ e.sup, sup.skew.alarm = alarmOf s.profile.skewLimit sup.skew.e8

/-! ### The stream table -/

/-- A legal entry of a part with this own bay (R3, R16, R18, R20, R33): an index of 0 to 63; a publisher or a
subscriber; supervision exactly when foreign, and a foreign entry without publisher; the contact stream published by
MIRROR without subscribers and MIRROR publishing nothing else; no tributary both publisher and subscriber. -/
structure EntryLegal (ownBay : Byte) (e : Entry) : Prop where
  index : e.id.index.toNat ≤ 63
  held : e.publisher ≠ none ∨ e.members ≠ Members.empty
  supervised : e.sup.isSome = true ↔ e.id.bay ≠ ownBay
  foreignUnpublished : e.id.bay ≠ ownBay → e.publisher = none
  contact : e.id = ⟨ownBay, 0⟩ ↔ e.publishedBy .mirror = true
  contactUnjoined : e.id = ⟨ownBay, 0⟩ → e.members = Members.empty
  ownUnmirrored : e.id.bay = ownBay → e.members.mirror = false
  apart : ∀ t : Trib, e.publishedBy (.trib t) = true → e.members.has (.trib t) = false

/-- A binding's source bay is 1 to 254 and not the own bay (R160). -/
def BindingsLegal (s : State) : Prop :=
  ∀ i : Fin 8, ∀ b ∈ (s.mirror.outputs.get i).binding, validBay b.bay = true ∧ b.bay ≠ s.ownBay

/-- The table in strictly ascending order of identifier, so that no two entries have the same (R1, R20). -/
abbrev TableOrdered (s : State) : Prop := s.table.Pairwise fun x y => x.id.key < y.id.key

/-- A legal stream table (R20): at most 64 entries in strictly ascending order of identifier, so that no two have the
same, each of them legal; the own contact entry there exactly while publishing is on (R33). -/
structure TableLegal (s : State) : Prop where
  size : s.table.length ≤ 64
  ordered : TableOrdered s
  entries : ∀ e ∈ s.table, EntryLegal s.ownBay e
  contact : (s.find (s.ownId 0)).isSome = true ↔ s.mirror.publish = true
  bindings : BindingsLegal s

/-! ### Ring unit and contact mirror -/

/-- A legal ring unit (R136, R141, R143, R145, R147, R150). -/
structure RingLegal (valid : Bool) (r : RingUnit) : Prop where
  timer : r.beaconTimer.isSome = valid
  tally : r.tally ≤ 3
  unknown : r.state = .unknown ↔ r.tally < 3
  outstanding : ∀ y : Line, (r.outstanding.get y).length ≤ 4
  distinct : ∀ y : Line, ((r.outstanding.get y).map fun o => o.seq).Nodup
  ages : ∀ y : Line, r.returnAge.get y ≤ 3
  nodes : ∀ y : Line, ∀ d ∈ r.measured.get y, 1 ≤ d.nodes ∧ d.nodes ≤ 64
  rosterSize : r.roster.length ≤ 63
  rosterOrdered : r.roster.Pairwise fun x y => x.bay.toNat < y.bay.toNat
  rosterParts : ∀ rec ∈ r.roster, (rec.parts.a.isSome || rec.parts.b.isSome) = true
  rosterHops : ∀ rec ∈ r.roster, ∀ x : Line, ∀ part ∈ rec.parts.get x, part.hops ≤ 63

/-- A legal contact mirror (R155, R156, R160). -/
structure MirrorLegal (m : Mirror) : Prop where
  debounce : 1 ≤ m.debounce ∧ m.debounce ≤ 16
  refresh : 10 ≤ m.refresh ∧ m.refresh ≤ 1000
  runs : ∀ i : Fin 8, (m.inputs.get i).run < 16
  timer : m.refreshTimer.isSome = m.publish
  changed : m.changedSet &&& ~~~ m.enableMask = 0
  unboundLow : ∀ i : Fin 8, (m.outputs.get i).binding = none → (m.outputs.get i).level = false

/-- The contact mirror and the stream table agree (R34, R160, R75): MIRROR is a member of b/0 exactly for the bound
bays b, there is one source record for each of them, and it holds the health of its entry, with no data while that is
WAITING or LOST. -/
structure MirrorLinked (s : State) : Prop where
  members : ∀ e ∈ s.table, e.members.mirror = true ↔ e.id.index = 0 ∧ e.id.bay ∈ boundBays s.mirror.outputs
  joined : ∀ b ∈ boundBays s.mirror.outputs, (s.find ⟨b, 0⟩).isSome = true
  sources : ∀ b : Byte, (findSource b s.mirror.sources).isSome = true ↔ b ∈ boundBays s.mirror.outputs
  ordered : s.mirror.sources.Pairwise fun x y => x.bay.toNat < y.bay.toNat
  health : ∀ r ∈ s.mirror.sources, r.health = entryHealth r.bay s.table
  noData : ∀ r ∈ s.mirror.sources, r.health = .waiting ∨ r.health = .lost → r.data = none

/-- A bound output whose source is WAITING, or LOST under the SAFE policy, shows its safe level (R161). -/
def SafeLevels (s : State) : Prop :=
  ∀ i : Fin 8, ∀ b ∈ (s.mirror.outputs.get i).binding, ∀ r ∈ findSource b.bay s.mirror.sources,
    (r.health = .waiting ∨ (r.health = .lost ∧ b.policy = .safe)) → (s.mirror.outputs.get i).level = b.safeLevel

/-- A legal state of the whole part. -/
structure Legal (s : State) : Prop where
  profile : ProfileLegal s.profile
  ports : PortsLegal s
  receivers : ReceiversLegal s
  egresses : EgressesLegal s
  table : TableLegal s
  supervisions : SupervisionsLegal s
  alarms : AlarmsEvaluated s
  ring : RingLegal s.bayValid s.ring
  mirror : MirrorLegal s.mirror
  linked : MirrorLinked s
  safe : SafeLevels s

/-! ### The terms of the statements: bytes as R170 writes them, and what an operation leaves, field by field -/

/-- A 16-bit number as two bytes, the most significant first. -/
def twoBytes (w : BitVec 16) : List Byte := [w.extractLsb' 8 8, w.extractLsb' 0 8]

/-- A 24-bit number as three bytes, the most significant first. -/
def threeBytes (w : BitVec 24) : List Byte := [w.extractLsb' 16 8, w.extractLsb' 8 8, w.extractLsb' 0 8]

/-- A 32-bit number as four bytes, the most significant first. -/
def fourBytes (w : BitVec 32) : List Byte :=
  [w.extractLsb' 24 8, w.extractLsb' 16 8, w.extractLsb' 8 8, w.extractLsb' 0 8]

/-- Whether a command is an event of a timer: one of the seven expiries of timers and roster parts, or the sample event
of the contact inputs. -/
def isTimerEvent : Instr → Bool
  | .claimHoldExpiry _ | .dwellExpiry _ | .qualityPeriodExpiry _ | .beaconTimerExpiry | .rosterExpiry .. => true
  | .silenceTimerExpiry .. | .contactSample _ | .refreshTimerExpiry => true
  | .powerOnReset .. | .linkUp _ | .linkDown _ | .tributaryFrameReceived .. | .tributaryEndOfTransmission .. => false
  | .claim .. | .release .. | .join .. | .leave .. | .detach _ => false
  | .lineEnable .. | .lineDisable .. | .lineRestart .. | .setup .. | .mirror .. => false
  | .readStream .. | .readLine .. | .readRing _ | .readTributary _ | .readProfile _ | .readMirror _ => false
  | .clear .. | .requestUnknown .. => false
  | .lockAcquired _ | .lockLost _ | .lineFrameReceived .. | .lineEndOfTransmission .. => false

/-- The state with the head request of Tn taken from its buffer (R165). -/
def State.taken (t : Trib) (s : State) : State :=
  { s with ports := s.ports.set t { s.ports.get t with requests := (s.ports.get t).requests.tail } }

/-- The state with the REPLY of an executed request of Tn placed, and the rotation pointer moved on (R165, R166). -/
def State.replied (t : Trib) (r : Request) (result : ResultCode) (fields : List Byte) (s : State) : State :=
  { s with
    ports := s.ports.set t ((s.ports.get t).placeReply ⟨r.code, r.tag, result, fields⟩)
    pointer := t.next }

/-- `after` is the table `before` with `x` as what is found under one identifier, and every other identifier finding
what it found. -/
structure TableSet (before after : List Entry) (id : StreamId) (x : Option Entry) : Prop where
  entry : findEntry id after = x
  others : ∀ y : StreamId, y ≠ id → findEntry y after = findEntry y before

/-- What the teardown of Tn makes of one entry (R38): the claim of Tn is released and its membership removed; an entry
left with neither publisher nor subscriber is freed, and one left without subscribers has no supervision. -/
def tornEntry (t : Trib) (e : Entry) : Option Entry :=
  let publisher := if e.publishedBy (.trib t) = true then none else e.publisher
  let members := e.members.put (.trib t) false
  if e.publishedBy (.trib t) = false ∧ e.members.has (.trib t) = false then some e
  else if publisher = none ∧ members = Members.empty then none
  else some { e with publisher := publisher, members := members, sup := if members = Members.empty then none else e.sup }

/-- A port with both delivery queues emptied and their records counted as discarded (R85, R100). -/
def tornPort (p : Port) : Port :=
  { p with
    urgentQ := []
    normalQ := []
    counters := { p.counters with
      discarded := p.counters.discarded + BitVec.ofNat 16 (p.urgentQ.length + p.normalQ.length) } }

/-- An egress whose line has left LOCKED for SEARCH, under urgent burst `burst` (R130). -/
def abortedEgress (burst : Nat) (e : Egress) : Egress :=
  { e with
    queues := noFrames
    credit := burst
    inFlight := none
    lineDown := e.lineDown + BitVec.ofNat 16 (e.queues.toList.map List.length).sum
    aborts := if e.inFlight = none then e.aborts else e.aborts + 1 }

/-- The state after line `l` has left LOCKED for SEARCH at `level`, with the counters of its receiver given (R108, R119,
R130): the receiver, the aborted egress, and LINE raised to every UP tributary. -/
def State.departed (l : Line) (level : Nat) (counters : ReceiverCounters) (s : State) : State :=
  { s with
    receivers := s.receivers.set l
      ⟨.search, level, some (s.timeBase + millis s.profile.dwell), none, 0, counters⟩
    egresses := s.egresses.set l (abortedEgress s.profile.urgentBurst (s.egresses.get l))
    ports := Quad.ofFn fun t => (s.ports.get t).raise .line }

end Sys2Proof.Machine
end

