-- ==== Sys2Proof/WellFormed.lean ====
section
/-! DEFINITION. Well-formed commands: operands that the event or request can carry. -/

namespace Sys2Proof

/-- The longest fields of a request: a body of at most 1,025 bytes less the code and the tag (R13, R15). -/
def maxRequestFields : Nat := 1023

/-- A service list as a SETUP can carry it: its count is one byte (R168). -/
def listFits (f : SetupFields) : Bool :=
  match f.serviceList with
  | some list => decide (list.length ≤ 255)
  | none => true

/-- Whether a command is well-formed: a stream index of a silence timer is 0 to 63 (R1), a SETUP's service list has a
one-byte count (R168), the bytes of a received frame are at least one, and a REQUEST_UNKNOWN holds fields that fit a
frame and stand for no other request (R166). -/
def WellFormed : Instr → Bool
  | .silenceTimerExpiry _ index _ => decide (index.toNat ≤ 63)
  | .setup _ f => listFits f
  | .tributaryFrameReceived _ bytes => !bytes.isEmpty
  | .lineFrameReceived _ bytes => !bytes.isEmpty
  | .requestUnknown t code fields =>
    decide (fields.length ≤ maxRequestFields) && (Machine.decodeRow t code fields).isNone
  | .powerOnReset _ _ _ | .linkUp _ | .linkDown _ | .tributaryEndOfTransmission _ _ | .claimHoldExpiry _ => true
  | .claim _ _ _ | .release _ _ | .join _ _ _ _ _ | .leave _ _ _ | .detach _ => true
  | .lineEnable _ _ | .lineDisable _ _ | .lineRestart _ _ | .mirror _ _ => true
  | .readStream _ _ _ | .readLine _ _ | .readRing _ | .readTributary _ | .readProfile _ | .readMirror _ => true
  | .clear _ _ | .lockAcquired _ | .lockLost _ | .dwellExpiry _ | .qualityPeriodExpiry _ => true
  | .lineEndOfTransmission _ _ | .beaconTimerExpiry | .rosterExpiry _ _ | .contactSample _ => true
  | .refreshTimerExpiry => true

end Sys2Proof
end

