-- ==== Sys2Proof/Certificates/Slice0/Obligations.lean ====
section
/-! DEFINITION. The statements for the provers, in the order of the manual's chapters. The terms that are not the
machine's own (what an operation leaves, field by field) are in Sys2Proof/Safety.lean. Where a statement rests on a
choice of the model, its comment names the log entry. -/

section Statements

open Sys2Proof Sys2Proof.Machine

/-! ### The machine as a whole -/

/-- The command at the front of the queue is carried out with the queue's rest. -/
def Obligations.StepRunsFrontCommand : Prop :=
  ∀ (i : Instr) (rest : List Instr) (s : State), s.pending = i :: rest → step s = exec i { s with pending := rest }

/-- What a step on an empty queue does (model's choice, log 4): it carries out the step of the part's own that is due,
a request before any timer, and counts one microsecond when none is due; none is due only when the request unit has no
eligible request and no running timer has reached its due reading; and what is carried out is due: it is the request
that the request unit takes next, or the expiry of a running timer or of a part in the roster, or the sample event,
whose due reading is reached. A due reading is reached when the signed difference is not negative (R7). A due reading
ahead of the time base is what it then reads, one that it has reached leaves it as it is, and this changes nothing
else. -/
def Obligations.IdleStep : Prop :=
  (∀ s : State, s.pending = [] →
      (s.ownStep = none → step s = .next { s with timeBase := s.timeBase + 1 })
      ∧ (∀ i : Instr, s.ownStep = some i → step s = exec i s)
      ∧ (∀ (t : Trib) (r : Request), s.nextRequest = some (t, r) → s.ownStep = some (r.command t))
      ∧ (∀ i : Instr, s.ownStep = some i →
          (∃ (t : Trib) (r : Request), s.nextRequest = some (t, r) ∧ i = r.command t)
          ∨ (∃ (t : Trib), ∃ due ∈ (s.ports.get t).holdTimer,
              i = .claimHoldExpiry t ∧ reached s.timeBase due = true)
          ∨ (∃ (l : Line), ∃ due ∈ (s.receivers.get l).dwellTimer,
              i = .dwellExpiry l ∧ reached s.timeBase due = true)
          ∨ (∃ (l : Line), ∃ due ∈ (s.receivers.get l).qualityTimer,
              i = .qualityPeriodExpiry l ∧ reached s.timeBase due = true)
          ∨ (∃ e ∈ s.table, ∃ sup ∈ e.sup, ∃ (l : Line), ∃ due ∈ sup.silence.get l,
              i = .silenceTimerExpiry e.id.bay e.id.index l ∧ reached s.timeBase due = true)
          ∨ (∃ due ∈ s.ring.beaconTimer, i = .beaconTimerExpiry ∧ reached s.timeBase due = true)
          ∨ (∃ rec ∈ s.ring.roster, ∃ (l : Line), ∃ part ∈ rec.parts.get l,
              i = .rosterExpiry rec.bay l ∧ reached s.timeBase part.expiry = true)
          ∨ (i = .contactSample s.inPins ∧ reached s.timeBase s.mirror.sampleDue = true)
          ∨ (∃ due ∈ s.mirror.refreshTimer, i = .refreshTimerExpiry ∧ reached s.timeBase due = true))
      ∧ (s.ownStep = none →
          s.nextRequest = none
          ∧ (∀ (t : Trib), ∀ due ∈ (s.ports.get t).holdTimer, reached s.timeBase due = false)
          ∧ (∀ (l : Line), ∀ due ∈ (s.receivers.get l).dwellTimer, reached s.timeBase due = false)
          ∧ (∀ (l : Line), ∀ due ∈ (s.receivers.get l).qualityTimer, reached s.timeBase due = false)
          ∧ (∀ e ∈ s.table, ∀ sup ∈ e.sup, ∀ (l : Line), ∀ due ∈ sup.silence.get l, reached s.timeBase due = false)
          ∧ (∀ due ∈ s.ring.beaconTimer, reached s.timeBase due = false)
          ∧ (∀ rec ∈ s.ring.roster, ∀ (l : Line), ∀ part ∈ rec.parts.get l, reached s.timeBase part.expiry = false)
          ∧ reached s.timeBase s.mirror.sampleDue = false
          ∧ (∀ due ∈ s.mirror.refreshTimer, reached s.timeBase due = false)))
  ∧ (∀ now due : Time, reached now due = true ↔ 0 ≤ (now - due).toInt)
  ∧ (∀ (due : Time) (s : State),
      s.advanceTo due = { s with timeBase := (s.advanceTo due).timeBase }
      ∧ (0 ≤ (s.timeBase - due).toInt → (s.advanceTo due).timeBase = s.timeBase)
      ∧ ((s.timeBase - due).toInt < 0 → (s.advanceTo due).timeBase = due))

/-- Every command answers a next state in every state, and leaves the commands that wait behind it waiting. That one
that cannot take place answers the state unchanged is the model's choice (logs 2 and 3), and so is the queue kept at a
reset (log 5). -/
def Obligations.CommandsAnswerNext : Prop :=
  ∀ (i : Instr) (s : State), ∃ u : State, exec i s = .next u ∧ u.pending = s.pending

/-- Which commands can change which of the part's common settings: the own bay only a reset (R2); besides a reset, the
profile only a SETUP (R168), the rotation pointer only a request (R165), the time base only an event of a timer (R7;
that these move it and nothing else does is log 4), the levels last seen only a sample (the model's own field, log 12),
the count of free values only READ RING (the model's own field, log 10), and the ring unit only a frame received on a
line, a beacon emission and a roster expiry (R137 to R151). -/
def Obligations.SettingsOwners : Prop :=
  ∀ (i : Instr) (s u : State), exec i s = .next u → (∀ bay lapsel inputs, i ≠ .powerOnReset bay lapsel inputs) →
    u.ownBay = s.ownBay
    ∧ ((∀ t f, i ≠ .setup t f) → u.profile = s.profile)
    ∧ (requestOf i = none → u.pointer = s.pointer)
    ∧ (isTimerEvent i = false → u.timeBase = s.timeBase)
    ∧ ((∀ levels, i ≠ .contactSample levels) → u.inPins = s.inPins)
    ∧ ((∀ t, i ≠ .readRing t) → u.freeCount = s.freeCount)
    ∧ ((∀ l bytes, i ≠ .lineFrameReceived l bytes) → (∀ bay l, i ≠ .rosterExpiry bay l) → i ≠ .beaconTimerExpiry →
        u.ring = s.ring)

/-- POWER_ON_RESET leaves every block in the state its rules give for reset, whatever the state before it: the straps
sampled, the time base at 0, nothing stored, queued or in flight, and every setting at its stated value. The queue of
commands and the count of free values are the model's own and are kept (log 5). -/
def Obligations.PowerOnReset : Prop :=
  ∀ (bay : Byte) (lapsel : BitVec 2) (inputs : Byte) (s : State), ∃ u : State,
    exec (.powerOnReset bay lapsel inputs) s = .next u
    ∧ u.pending = s.pending ∧ u.freeCount = s.freeCount ∧ u.inPins = inputs
    ∧ u.ownBay = bay ∧ u.timeBase = 0 ∧ u.pointer = .t0 ∧ u.table = []
    ∧ u.profile = ⟨[8, 16, 32, 63].getD lapsel.toNat 0, 10, 2000,
        [.fwd, .loc .t0, .fwd, .loc .t1, .fwd, .loc .t2, .fwd, .loc .t3, .own], 2, ⟨0, 0⟩, 3, 100, 16, 0⟩
    ∧ (∀ t : Trib, u.ports.get t =
        ⟨.down, none, [], [], [], none, false, 0, none, ⟨0, 0, 0, 0, 0, 0, 0, 0, 0, 0, 0⟩⟩)
    ∧ (∀ l : Line, u.receivers.get l =
        if bay = 0 ∨ bay = 255 then ⟨.off, 0, none, none, 0, ⟨0, 0, 0, 0, 0, 0, 0, 0⟩⟩
        else ⟨.search, 0, some 3000, none, 0, ⟨0, 0, 0, 0, 0, 0, 0, 0⟩⟩)
    ∧ (∀ l : Line, u.egresses.get l =
        ⟨noFrames, 2, 0, none, ⟨0, 0, ⟨0, 0, 0, 0⟩, 0⟩, ⟨0, 0, ⟨0, 0, 0, 0⟩, 0⟩, 0, 0⟩)
    ∧ u.ring = ⟨0, if bay = 0 ∨ bay = 255 then none else some 10000, 0, ⟨[], []⟩, ⟨3, 3⟩, ⟨none, none⟩,
        ⟨none, none⟩, .unknown, [], ⟨0, 0, 0, 0, 0, 0⟩⟩
    ∧ (∀ n : Fin 8, u.mirror.inputs.get n = ⟨inputs.getLsbD n.val, 0⟩ ∧ u.mirror.outputs.get n = ⟨none, false⟩)
    ∧ u.mirror = { u.mirror with
        debounce := 4, sampleDue := 250, publish := false, enableMask := 255, maskValues := 0, refresh := 100,
        changeCounter := 0, changedSet := 0, refreshTimer := none, sources := [], counters := ⟨0, 0, 0, 0⟩ }

/-- The state after reset is legal, with any straps and any levels at the inputs; so is the reset state of the model,
whose straps and levels are its own choice (log 1). -/
def Obligations.ResetLegal : Prop :=
  (∀ (bay : Byte) (lapsel : BitVec 2) (inputs : Byte), Legal (State.powerOn bay lapsel inputs)) ∧ Legal State.reset

/-! ### Frames and their encodings -/

/-- A ring frame within the ranges of R8 and R9, written as R8 lays it out and received, is a good frame with every
field as it was written. -/
def Obligations.RingFrameRoundTrip : Prop :=
  ∀ f : RingFrame, f.index.toNat ≤ 63 → f.lap.toNat ≤ 63 → f.payload.length ≤ 1024 →
    (f.kind = .beacon → f.payload.length = 3 ∧ f.index = 0) → classifyLine f.bytes = .good f

/-- The four classes of a received ring frame (R11): too long before all else, then a check failure, then malformed by
any of the tests of the header, and otherwise good; and a good frame is read from exactly the bytes that write it. -/
def Obligations.LineClasses : Prop :=
  ∀ bytes : List Byte,
    (1036 < bytes.length → classifyLine bytes = .tooLong)
    ∧ (bytes.length ≤ 1036 →
      (bytes.length < 12 ∨ checkBytes (bytes.take (bytes.length - 4)) ≠ bytes.drop (bytes.length - 4)) →
        classifyLine bytes = .checkFailure)
    ∧ (bytes.length ≤ 1036 → 12 ≤ bytes.length →
      checkBytes (bytes.take (bytes.length - 4)) = bytes.drop (bytes.length - 4) →
      let type := (bytes.getD 0 0).toNat
      let index := (bytes.getD 2 0).toNat
      let lap := (bytes.getD 3 0).toNat
      let length := 256 * (bytes.getD 6 0).toNat + (bytes.getD 7 0).toNat
      if type ∉ [0x71, 0x72, 0x73, 0x7B] ∨ 63 < index ∨ 63 < lap ∨ 1024 < length ∨ length + 12 ≠ bytes.length
          ∨ (type = 0x7B ∧ (length ≠ 3 ∨ index ≠ 0)) then
        classifyLine bytes = .malformed
      else ∃ f : RingFrame, classifyLine bytes = .good f ∧ f.bytes = bytes)

/-- Tributary frames. Received (R15): a byte string is malformed when it is shorter than 7, its check is wrong, its body
length does not match or is above 1025, its type is not PUBLISH or REQUEST, or its body is too short for its type or
names an index above 63; otherwise it is a good frame, read from exactly the bytes that write it. The frames an attached
device sends are read as they were written, and a frame of the part's own types is malformed when it is received (R12,
R13). Sent (R12 to R14): the type, the body length, the body and the check, where the body of a DELIVERY is its record
with the flags, the gap count where there is one and the payload, that of a REPLY the echoed code and tag, the result
and the fields, and that of a REPORT the pending set; with the codes of every value. -/
def Obligations.TributaryFrameRoundTrip : Prop :=
  (∀ (index : Byte) (payload : List Byte), index.toNat ≤ 63 → payload.length ≤ 1024 →
    classifyTrib (publishBytes index payload) = .publish index payload)
  ∧ (∀ r : Request, r.fields.length ≤ 1023 → classifyTrib (requestBytes r) = .request r)
  ∧ (∀ (index : Byte) (payload : List Byte), 63 < index.toNat → classifyTrib (publishBytes index payload) = .malformed)
  ∧ (∀ f : TribFrame, classifyTrib f.bytes = .malformed)
  ∧ (∀ bytes : List Byte,
    let type := (bytes.getD 0 0).toNat
    let length := 256 * (bytes.getD 1 0).toNat + (bytes.getD 2 0).toNat
    (bytes.length < 7 ∨ checkBytes (bytes.take (bytes.length - 4)) ≠ bytes.drop (bytes.length - 4) →
      classifyTrib bytes = .malformed)
    ∧ (7 ≤ bytes.length → checkBytes (bytes.take (bytes.length - 4)) = bytes.drop (bytes.length - 4) →
      if length + 7 ≠ bytes.length ∨ 1025 < length ∨ (type ≠ 0x11 ∧ type ≠ 0x12)
          ∨ (type = 0x11 ∧ (length = 0 ∨ 63 < (bytes.getD 3 0).toNat)) ∨ (type = 0x12 ∧ length < 2) then
        classifyTrib bytes = .malformed
      else if type = 0x11 then ∃ (index : Byte) (payload : List Byte),
        classifyTrib bytes = .publish index payload ∧ publishBytes index payload = bytes
      else ∃ r : Request, classifyTrib bytes = .request r ∧ requestBytes r = bytes))
  ∧ (let framed := fun (type : Byte) (body : List Byte) =>
      let opening := type :: twoBytes (BitVec.ofNat 16 body.length) ++ body
      opening ++ checkBytes opening
    (∀ r : DeliveryRecord,
      (TribFrame.delivery r).bytes = framed 0x21 ([r.kind.code, r.id.bay, r.id.index] ++ twoBytes r.seq ++ [r.flags]
        ++ (match r.gap with | some gap => twoBytes (BitVec.ofNat 16 gap) | none => [])
        ++ twoBytes (BitVec.ofNat 16 r.payload.length) ++ r.payload)
      ∧ (r.flags >>> 6).toNat = r.origin.code ∧ r.flags.getLsbD 5 = r.late ∧ r.flags.getLsbD 4 = r.resync
      ∧ r.flags.getLsbD 3 = r.gap.isSome ∧ r.flags.toNat % 8 = r.health.code.toNat)
    ∧ (∀ y : Reply, (TribFrame.reply y).bytes = framed 0x22 ([y.code, y.tag, y.result.code] ++ y.fields))
    ∧ (∀ kinds : ReportSet, (TribFrame.report kinds).bytes = framed 0x23 (twoBytes (kinds.setWidth 16)))
    ∧ (∀ (kinds : ReportSet) (k : ReportKind), kinds.has k = kinds.getLsbD k.bit)
    ∧ [RecordKind.data, .lost, .restored].map RecordKind.code = [1, 2, 3]
    ∧ [Origin.none, .line .a, .line .b, .localFanOut].map Origin.code = [0, 1, 2, 3]
    ∧ [ShownHealth.supervised .waiting, .supervised .dual, .supervised .singleA, .supervised .singleB,
        .supervised .lost, .localStream].map ShownHealth.code = [0, 1, 2, 3, 4, 5]
    ∧ [ResultCode.done, .taken, .held, .full, .range, .notHeld, .refused, .lastPath, .unknown].map ResultCode.code
      = [0, 1, 2, 3, 4, 5, 6, 7, 8]
    ∧ [ReportKind.health, .skew, .line, .ring, .overrun, .nearFull, .clash, .profile, .bayClash].map ReportKind.bit
      = [0, 1, 2, 3, 4, 5, 6, 7, 8])

/-- A well-formed request command, written as a request and decoded again, is the command it was, with every operand.
A request that decodes is the request that its command is written as: no byte of it is dropped, and no other bytes
decode to that command. -/
def Obligations.RequestRoundTrip : Prop :=
  (∀ (i : Instr) (t : Trib) (code tag : Byte) (fields : List Byte), WellFormed i = true →
      requestOf i = some (t, code, fields) → (⟨code, tag, fields⟩ : Request).command t = i)
  ∧ (∀ (t : Trib) (code : Byte) (fields : List Byte) (i : Instr), decodeRow t code fields = some i →
      requestOf i = some (t, code, fields) ∧ WellFormed i = true)

/-! ### The duplicate filter and the path supervisor -/

/-- The verdicts and the change of the window (R44 to R50). An ahead verdict does what R46 states, in its order: the
numbers skipped are appended to the missing list, those behind the new front by 32 or more are dropped and counted
lost, the front is the arrival's number and the stale run is 0. The others are, with `b` how far the arrival lies
behind the front: activation of an EMPTY window, duplicate, late, stale and resynchronised. All but duplicate and
stale deliver. Each verdict advances its counters (R56): accepted at all but duplicate and stale, duplicate, late, stale
and resync each at its own, and lost at an ahead verdict by the numbers it drops. -/
def Obligations.WindowVerdicts : Prop :=
  (∀ (front s : SeqNo) (missing : List SeqNo) (run : Nat),
      let d := seqDistance front s
      let appended := missing ++ (List.range (d - 1)).map fun k => front + BitVec.ofNat 16 (k + 1)
      let kept := appended.filter fun n => seqDistance n s < 32
      1 ≤ d → d ≤ 32767 →
        (Window.active front missing run).judge s = ⟨.ahead (d - 1), .active s kept 0, appended.length - kept.length⟩)
  ∧ ((∀ s : SeqNo, Window.empty.judge s = ⟨.activation, .active s [] 0, 0⟩)
    ∧ (∀ (front s : SeqNo) (missing : List SeqNo) (run : Nat),
        let d := seqDistance front s
        let b := 65536 - d
        (d = 0 → (Window.active front missing run).judge s = ⟨.duplicate, .active front missing 0, 0⟩)
        ∧ (32768 ≤ d → b ≤ 31 → s ∈ missing →
            (Window.active front missing run).judge s = ⟨.late, .active front (missing.erase s) 0, 0⟩)
        ∧ (32768 ≤ d → b ≤ 31 → s ∉ missing →
            (Window.active front missing run).judge s = ⟨.duplicate, .active front missing 0, 0⟩)
        ∧ (32768 ≤ d → 32 ≤ b → run < 3 →
            (Window.active front missing run).judge s = ⟨.stale, .active front missing (run + 1), 0⟩)
        ∧ (32768 ≤ d → 32 ≤ b → run = 3 →
            (Window.active front missing run).judge s = ⟨.resync, .active s [] 0, 0⟩))
    ∧ (∀ v : Verdict, v.delivers = false ↔ v = .duplicate ∨ v = .stale))
  ∧ (∀ (c : EntryCounters) (v : Verdict) (lost : Nat),
      c.count v lost = { c with
        accepted := if v = .duplicate ∨ v = .stale then c.accepted else c.accepted + 1
        duplicate := if v = .duplicate then c.duplicate + 1 else c.duplicate
        late := if v = .late then c.late + 1 else c.late
        stale := if v = .stale then c.stale + 1 else c.stale
        lost := match v with
          | .ahead _ => c.lost + BitVec.ofNat 16 lost
          | _ => c.lost
        resync := if v = .resync then c.resync + 1 else c.resync })

/-- A sample enters the accumulator as R79 states, with the division rounded toward minus infinity, and the
accumulator and the reported skew, which is rounded toward zero, stay within their bounds. -/
def Obligations.SkewAccumulator : Prop :=
  ∀ (e8 : Option Int) (s : Int), -16383 ≤ s → s ≤ 16383 → (∀ e ∈ e8, -131064 ≤ e ∧ e ≤ 131064) →
    (e8 = none → accumulate e8 s = 8 * s)
    ∧ (∀ e ∈ e8, ∃ q : Int, 8 * q ≤ e ∧ e < 8 * q + 8 ∧ accumulate e8 s = e - q + s)
    ∧ -131064 ≤ accumulate e8 s ∧ accumulate e8 s ≤ 131064
    ∧ (∀ e ∈ e8, (0 ≤ e → reportedSkew e = e / 8) ∧ (e ≤ 0 → reportedSkew e = -((-e) / 8)))
    ∧ -16383 ≤ reportedSkew (accumulate e8 s) ∧ reportedSkew (accumulate e8 s) ≤ 16383

/-- What an arrival does to the skew record (R77, R78, R80): activation, ahead and resynchronised set the probe; a
duplicate of the probe's number on the other line takes a sample, of the line-B time less the line-A time, clamped,
removes the probe and evaluates the alarm; any other arrival leaves the record as it is. -/
def Obligations.SkewSample : Prop :=
  ∀ (limit : Nat) (v : Verdict) (s : SeqNo) (x : Line) (now : Time) (sk : Skew),
    (v = .activation ∨ v = .resync ∨ (∃ gap, v = .ahead gap) →
      sk.arrive limit v s x now = { sk with probe := some ⟨s, x, now⟩ })
    ∧ (∀ pr ∈ sk.probe, v = .duplicate → pr.seq = s → pr.line ≠ x →
        let difference := if x = .b then (now - pr.time).toInt else (pr.time - now).toInt
        let sample := if 16383 < difference then 16383 else if difference < -16383 then -16383 else difference
        let e := accumulate sk.e8 sample
        sk.arrive limit v s x now = ⟨some e, none, decide (limit ≠ 0 ∧ (limit : Int) < |reportedSkew e|)⟩)
    ∧ (v = .late ∨ v = .stale ∨ (v = .duplicate ∧ ∀ pr ∈ sk.probe, pr.seq = s → pr.line = x) →
        sk.arrive limit v s x now = sk)

/-- What an arrival on line `x` does to the health record of a legal entry (R63 to R67): line `x` is live with its
timer due one silence time after the arrival; a first arrival does the same for the other line, and any other leaves
that line's flag and timer alone; the health is SINGLE_X where it was and DUAL otherwise, as the flags then say. -/
def Obligations.HealthAtArrival : Prop :=
  ∀ (sup : Supervision) (x : Line) (t : Time), SupervisionLegal sup →
    let after := sup.hear x t
    let due := t + BitVec.ofNat 32 (sup.p * sup.m)
    let own := match x with | .a => Health.singleA | .b => Health.singleB
    after.live.get x = true ∧ after.silence.get x = some due
    ∧ (sup.health = .waiting ∨ sup.health = .lost →
        after.live.get x.other = true ∧ after.silence.get x.other = some due)
    ∧ (sup.health ≠ .waiting → sup.health ≠ .lost →
        after.live.get x.other = sup.live.get x.other ∧ after.silence.get x.other = sup.silence.get x.other)
    ∧ after.health = (if sup.health = own then own else .dual)
    ∧ after.health = healthOf after.live
    ∧ after = { sup with live := after.live, silence := after.silence, health := after.health }

/-- SILENCE_TIMER_EXPIRY of a running timer (R68, R69, R73 to R75). With the other line live the health becomes SINGLE
of that line. Otherwise the stream is LOST: the window EMPTY, the skew record reset, a SKEW report where its alarm was
set, a LOST notice and a HEALTH report to each tributary member, and the contact mirror told; that they are placed in
this order is the model's choice (log 6). The time base reads the due reading, unless it had passed it (log 4). A
stopped timer, and one of an identifier without a supervised entry, does not expire: nothing changes (log 3). -/
def Obligations.SilenceExpiry : Prop :=
  (∀ (s : State) (bay index : Byte) (l : Line),
    (∀ e ∈ s.find ⟨bay, index⟩, ∀ sup ∈ e.sup, sup.silence.get l = none) →
      exec (.silenceTimerExpiry bay index l) s = .next s)
  ∧ ∀ (s : State) (bay index : Byte) (l : Line) (e : Entry) (sup : Supervision) (due : Time),
    s.find ⟨bay, index⟩ = some e → e.sup = some sup → sup.silence.get l = some due →
    (sup.live.get l.other = true →
      let health := match l with | .a => Health.singleB | .b => Health.singleA
      ∃ after : List Entry,
        TableSet s.table after ⟨bay, index⟩ (some { e with sup := some { sup with
          live := sup.live.set l false, silence := sup.silence.set l none, health := health } })
        ∧ exec (.silenceTimerExpiry bay index l) s = .next { s.advanceTo due with
            table := after
            ports := Quad.ofFn fun t =>
              if e.members.tribs.get t then (s.ports.get t).raise .health else s.ports.get t
            mirror := if e.members.mirror then s.mirror.hearHealth bay health else s.mirror })
    ∧ (sup.live.get l.other = false →
      ∃ after : List Entry,
        TableSet s.table after ⟨bay, index⟩ (some { e with sup := some { sup with
          live := sup.live.set l false, silence := ⟨none, none⟩, health := .lost, window := .empty
          skew := ⟨none, none, false⟩ } })
        ∧ exec (.silenceTimerExpiry bay index l) s = .next { s.advanceTo due with
            table := after
            ports := Quad.ofFn fun t =>
              if e.members.tribs.get t then
                ((if sup.skew.alarm then (s.ports.get t).raise .skew else s.ports.get t).offerNotice
                  ⟨.lost, ⟨bay, index⟩, 0, .none, false, false, none, .supervised .lost, []⟩).raise .health
              else s.ports.get t
            mirror := if e.members.mirror then s.mirror.hearLost bay else s.mirror })

/-! ### Tributary ports -/

/-- The transmitter's choice (R98, R99): a transmitter that is not free takes nothing; a free one takes the first of
the urgent queue, the reply slot, the report slot with the pending set as it stands, and the normal queue that holds
something, and leaves the rest of the port as it is. -/
def Obligations.TransmitterChoice : Prop :=
  ∀ p : Port,
    (p.link = .down ∨ p.inFlight ≠ none → p.choose = p)
    ∧ (p.link = .up → p.inFlight = none →
      (∀ (r : DeliveryRecord) (rest : List DeliveryRecord), p.urgentQ = r :: rest →
        p.choose = { p with urgentQ := rest, inFlight := some (.delivery r) })
      ∧ (p.urgentQ = [] → ∀ y : Reply, p.reply = some y →
        p.choose = { p with reply := none, inFlight := some (.reply y) })
      ∧ (p.urgentQ = [] → p.reply = none → p.report = true →
        p.choose = { p with report := false, inFlight := some (.report p.reports) })
      ∧ (p.urgentQ = [] → p.reply = none → p.report = false →
        ∀ (r : DeliveryRecord) (rest : List DeliveryRecord), p.normalQ = r :: rest →
          p.choose = { p with normalQ := rest, inFlight := some (.delivery r) })
      ∧ (p.urgentQ = [] → p.reply = none → p.report = false → p.normalQ = [] → p.choose = p))

/-- A DATA record offered to a legal port (R86, R94 to R96): discarded and counted on a DOWN link; refused by the full
queue of its frame's class, with the overrun counted and OVERRUN raised; and otherwise placed at the tail of that
queue, where a free transmitter takes it at once. The placement that makes 24 of 23 records raises NEAR_FULL. A notice
offered to a legal port whose normal queue is full (R97): it stands at the tail, one record is gone, the oldest DATA
record wherever it stood or else the head, the others keep their order, the overrun is counted and OVERRUN raised. On
a DOWN link the notice is discarded and counted (R86). -/
def Obligations.DeliveryPlacement : Prop :=
  (∀ (p : Port) (urgent : Bool) (r : DeliveryRecord), PortLegal p →
      (p.link = .down →
        p.offerData urgent r = { p with counters := { p.counters with discarded := p.counters.discarded + 1 } })
      ∧ (p.link = .up → (urgent = true ∧ p.urgentQ.length = 8) ∨ (urgent = false ∧ p.normalQ.length = 32) →
        p.offerData urgent r =
          ({ p with counters := { p.counters with overrun := p.counters.overrun + 1 } }).raise .overrun)
      ∧ (p.link = .up → (urgent = true ∧ p.urgentQ.length < 8) ∨ (urgent = false ∧ p.normalQ.length < 32) →
        (p.inFlight = none → p.offerData urgent r = { p with inFlight := some (.delivery r) })
        ∧ (p.inFlight ≠ none → urgent = true → p.offerData urgent r = { p with urgentQ := p.urgentQ ++ [r] })
        ∧ (p.inFlight ≠ none → urgent = false → p.normalQ.length ≠ 23 →
            p.offerData urgent r = { p with normalQ := p.normalQ ++ [r] })
        ∧ (p.inFlight ≠ none → urgent = false → p.normalQ.length = 23 →
            p.offerData urgent r = ({ p with normalQ := p.normalQ ++ [r] }).raise .nearFull)))
  ∧ (∀ (p : Port) (r : DeliveryRecord), PortLegal p →
      (p.link = .down →
        p.offerNotice r = { p with counters := { p.counters with discarded := p.counters.discarded + 1 } })
      ∧ (p.link = .up → p.normalQ.length = 32 →
        ∃ (before after : List DeliveryRecord) (gone : DeliveryRecord),
          p.normalQ = before ++ gone :: after
          ∧ (gone.kind = .data ∨ before = [] ∧ ∀ q ∈ p.normalQ, q.kind ≠ .data)
          ∧ (∀ q ∈ before, q.kind ≠ .data)
          ∧ p.offerNotice r =
            ({ p with
              normalQ := before ++ after ++ [r]
              counters := { p.counters with overrun := p.counters.overrun + 1 } }).raise .overrun)
      ∧ (p.link = .up → p.normalQ.length < 32 → r.kind ≠ .data → p.offerNotice r = p.offerData false r))

/-- A raising of a report kind (R171): nothing on a DOWN link or for a pending kind; otherwise the kind is added, the
others stay as they are, and a REPORT stands in the slot, which a free transmitter takes at once. The ALERTn pin is
asserted exactly while the link is UP and some kind is pending (R83). -/
def Obligations.ReportRaising : Prop :=
  (∀ (p : Port) (k : ReportKind), PortLegal p →
    (p.link = .down ∨ p.reports.has k = true → p.raise k = p)
    ∧ (p.link = .up → p.reports.has k = false → ∃ pending : ReportSet,
      (∀ j : ReportKind, pending.has j = (p.reports.has j || decide (j = k)))
      ∧ (p.inFlight ≠ none → p.raise k = { p with reports := pending, report := true })
      ∧ (p.inFlight = none → p.raise k = { p with reports := pending, inFlight := some (.report pending) })))
  ∧ (∀ (s : State) (t : Trib),
    s.alert t = true ↔ (s.ports.get t).link = .up ∧ ∃ k : ReportKind, (s.ports.get t).reports.has k = true)

/-- LINK_UP (R37, R84). On a DOWN link: the link is UP, the claim-hold timer stopped, and every claim of Tn ACTIVE
with its counter kept; nothing else changes. On an UP link nothing changes (log 3). -/
def Obligations.LinkUp : Prop :=
  ∀ (t : Trib) (s : State),
    ((s.ports.get t).link = .up → exec (.linkUp t) s = .next s)
    ∧ (PortLegal (s.ports.get t) → (s.ports.get t).link = .down → ∃ after : List Entry,
      exec (.linkUp t) s = .next { s with
        table := after
        ports := s.ports.set t { s.ports.get t with link := .up, holdTimer := none } }
      ∧ ∀ id : StreamId, findEntry id after = (findEntry id s.table).map fun e =>
          match e.publisher with
          | some p => if p.holder = .trib t then { e with publisher := some { p with state := .active } } else e
          | none => e)

/-- LINK_DOWN of an UP link (R35, R85): the port loses its queues, buffer, slots, pending set and frame in flight,
with the records counted as discarded, the frame as an abort and the loss as a link loss. With a claim-hold time the
timer is started and the claims of Tn are HELD; with a claim-hold time of 0 the teardown is performed. On a DOWN link
nothing changes (log 3). -/
def Obligations.LinkDown : Prop :=
  ∀ (t : Trib) (s : State),
    let p := s.ports.get t
    let lost : Port :=
      ⟨.down, p.holdTimer, [], [], [], none, false, 0, none, { p.counters with
        discarded := p.counters.discarded + BitVec.ofNat 16 (p.urgentQ.length + p.normalQ.length)
        aborts := if p.inFlight = none then p.counters.aborts else p.counters.aborts + 1
        linkLosses := p.counters.linkLosses + 1 }⟩
    (p.link = .down → exec (.linkDown t) s = .next s)
    ∧ (p.link = .up → s.profile.claimHold ≠ 0 → ∃ after : List Entry,
      exec (.linkDown t) s = .next { s with
        table := after
        ports := s.ports.set t { lost with holdTimer := some (s.timeBase + millis s.profile.claimHold) } }
      ∧ ∀ id : StreamId, findEntry id after = (findEntry id s.table).map fun e =>
          match e.publisher with
          | some pub => if pub.holder = .trib t then { e with publisher := some { pub with state := .held } } else e
          | none => e)
    ∧ (p.link = .up → s.profile.claimHold = 0 → TableOrdered s → ∃ after : List Entry,
      exec (.linkDown t) s = .next { s with table := after, ports := s.ports.set t lost }
      ∧ ∀ id : StreamId, findEntry id after = (findEntry id s.table).bind (tornEntry t))

/-- CLAIM_HOLD_EXPIRY of a running timer (R36, R38, R100): the timer is left stopped, Tn's delivery queues are emptied
into the discarded counter, and the teardown leaves of every entry what R38 says, every other part of the state as it
was. The time base reads the due reading, unless it had passed it; a stopped timer does not expire (logs 3 and 4). -/
def Obligations.ClaimHoldExpiry : Prop :=
  ∀ (t : Trib) (s : State),
    ((s.ports.get t).holdTimer = none → exec (.claimHoldExpiry t) s = .next s)
    ∧ (TableOrdered s → ∀ due ∈ (s.ports.get t).holdTimer, ∃ after : List Entry,
      exec (.claimHoldExpiry t) s = .next { s.advanceTo due with
        table := after
        ports := s.ports.set t (tornPort { s.ports.get t with holdTimer := none }) }
      ∧ ∀ id : StreamId, findEntry id after = (findEntry id s.table).bind (tornEntry t))

/-- TRIBUTARY_END_OF_TRANSMISSION (R87, R98): of a frame in flight, a DELIVERY counted as delivered and the
transmitter free to choose again; of a frame lost earlier, nothing. With nothing in flight nothing changes (log 3). -/
def Obligations.TributaryEnd : Prop :=
  ∀ (t : Trib) (s : State),
    let p := s.ports.get t
    let left := fun q : Port => ({ s with ports := s.ports.set t q } : State)
    exec (.tributaryEndOfTransmission t .lost) s = .next s
    ∧ (p.inFlight = none → exec (.tributaryEndOfTransmission t .inFlight) s = .next s)
    ∧ (∀ r : DeliveryRecord, p.inFlight = some (.delivery r) →
      exec (.tributaryEndOfTransmission t .inFlight) s = .next (left
        ({ p with
          inFlight := none
          counters := { p.counters with delivered := p.counters.delivered + 1 } } : Port).choose))
    ∧ (∀ f ∈ p.inFlight, (∀ r, f ≠ .delivery r) →
      exec (.tributaryEndOfTransmission t .inFlight) s = .next (left ({ p with inFlight := none } : Port).choose))

/-- TRIBUTARY_FRAME_RECEIVED of a frame that is not stamped (R3, R88, R89, R164): a malformed frame is counted and
discarded; a good REQUEST is counted and placed at the tail of the request buffer, or, when that holds 2, discarded as
a request overrun; a good PUBLISH is counted as unclaimed for index 0, for no entry and for an entry without
publisher, and as a clash, with CLASH raised to the publishing tributary, for an entry with another publisher. On a
DOWN link the event does not take place (R15; log 3). -/
def Obligations.TributaryFrame : Prop :=
  (∀ (t : Trib) (bytes : List Byte) (s : State),
      let p := s.ports.get t
      let left := fun q : Port => ({ s with ports := s.ports.set t q } : State)
      let i := Instr.tributaryFrameReceived t bytes
      (p.link = .down → exec i s = .next s)
      ∧ (p.link = .up → classifyTrib bytes = .malformed →
        exec i s = .next (left { p with counters := { p.counters with malformed := p.counters.malformed + 1 } }))
      ∧ (p.link = .up → ∀ r : Request, classifyTrib bytes = .request r →
        (p.requests.length < 2 → exec i s = .next (left { p with
          requests := p.requests ++ [r]
          counters := { p.counters with good := p.counters.good + 1 } }))
        ∧ (2 ≤ p.requests.length → exec i s = .next (left { p with
          counters := { p.counters with
            good := p.counters.good + 1
            requestOverrun := p.counters.requestOverrun + 1 } }))))
  ∧ (∀ (t : Trib) (bytes : List Byte) (index : Byte) (payload : List Byte) (s : State),
      classifyTrib bytes = .publish index payload → (s.ports.get t).link = .up →
      let p := s.ports.get t
      let left := fun q : Port => ({ s with ports := s.ports.set t q } : State)
      (index = 0 ∨ (∀ e ∈ s.find (s.ownId index), e.publisher = none) →
        exec (.tributaryFrameReceived t bytes) s = .next (left { p with
          counters := { p.counters with
            good := p.counters.good + 1
            unclaimed := p.counters.unclaimed + 1 } }))
      ∧ (index ≠ 0 → ∀ e ∈ s.find (s.ownId index), ∀ pub ∈ e.publisher, pub.holder ≠ .trib t →
        exec (.tributaryFrameReceived t bytes) s = .next (left (({ p with
          counters := { p.counters with
            good := p.counters.good + 1
            clash := p.counters.clash + 1 } } : Port).raise .clash))))

/-- A good PUBLISH of the publisher (R5, R23, R90 to R92): one copy with the own bay, the lap budget of the moment and
the sequence counter offered to each line egress, in the urgent queue for URGENT and in LOC of the tributary
otherwise; a DATA record of origin LOCAL and health LOCAL offered to each tributary subscriber; the counter advanced
by one and the intake counted at the entry and at the port. -/
def Obligations.PublishStamped : Prop :=
  ∀ (t : Trib) (bytes : List Byte) (index : Byte) (payload : List Byte) (s : State) (e : Entry) (pub : Publisher),
    classifyTrib bytes = .publish index payload → (s.ports.get t).link = .up → index ≠ 0 →
    s.find (s.ownId index) = some e → e.publisher = some pub → pub.holder = .trib t →
    let p := s.ports.get t
    let copy : RingFrame :=
      ⟨.stream e.cls, s.ownBay, index, BitVec.ofNat 8 s.profile.lapBudget, pub.seq, payload⟩
    let queue := if e.cls = .urgent then QueueName.urgent else .normal (.loc t)
    let record : DeliveryRecord :=
      ⟨.data, ⟨s.ownBay, index⟩, pub.seq, .localFanOut, false, false, none, .localStream, payload⟩
    let counted : Quad Port := s.ports.set t
      { p with counters := { p.counters with good := p.counters.good + 1, intakes := p.counters.intakes + 1 } }
    ∃ after : List Entry,
      TableSet s.table after ⟨s.ownBay, index⟩ (some { e with
        publisher := some { pub with seq := pub.seq + 1 }
        counters := { e.counters with intakes := e.counters.intakes + 1 } })
      ∧ exec (.tributaryFrameReceived t bytes) s = .next { s with
          table := after
          egresses := ⟨
            s.egresses.a.offer (s.isOpen .a) s.profile.serviceList s.profile.urgentBurst queue copy,
            s.egresses.b.offer (s.isOpen .b) s.profile.serviceList s.profile.urgentBurst queue copy⟩
          ports := Quad.ofFn fun u =>
            if e.members.tribs.get u then (counted.get u).offerData (decide (e.cls = .urgent)) record
            else counted.get u }

/-! ### Requests -/

/-- The rotation of the request unit (R164, R165): it takes the head request of the first tributary, from its pointer
on, whose buffer holds one and whose reply slot is empty. A request command whose request is not that one does not
take place (model's choice, log 2). -/
def Obligations.RequestRotation : Prop :=
  (∀ (s : State) (t : Trib) (r : Request),
      let eligible := fun u : Trib => (s.ports.get u).requests ≠ [] ∧ (s.ports.get u).reply = none
      (s.nextRequest = some (t, r) ↔
        eligible t ∧ (s.ports.get t).requests.head? = some r
          ∧ ∀ k : Nat, k < (t.toNat + 4 - s.pointer.toNat) % 4 → ∀ u : Trib, u.toNat = (s.pointer.toNat + k) % 4 →
            ¬ eligible u)
      ∧ (s.nextRequest = none ↔ ∀ u : Trib, ¬ eligible u))
  ∧ (∀ (i : Instr) (t : Trib) (code : Byte) (fields : List Byte) (s : State), requestOf i = some (t, code, fields) →
      (s.serving t i = none → exec i s = .next s)
      ∧ (∀ r : Request, s.serving t i = some r ↔ s.nextRequest = some (t, r) ∧ r.command t = i))

/-- CLAIM (R22): the eight cases, tested in order. A grant makes the entry, or the publisher of the entry there is,
with state ACTIVE and counter 0, and the class of the claim; every other case changes nothing. Each is answered with
the result of its case, and nothing but the stream table, the request buffer and the reply slot takes part. -/
def Obligations.ClaimCases : Prop :=
  ∀ (t : Trib) (index cls : Byte) (s : State) (r : Request), s.serving t (.claim t index cls) = some r →
    let id : StreamId := ⟨s.ownBay, index⟩
    let answered := fun (result : ResultCode) (after : List Entry) =>
      exec (.claim t index cls) s = .next (({ s.taken t with table := after }).replied t r result [])
    (index = 0 ∨ 63 < index.toNat ∨ cls.toNat ∉ [1, 2, 3] → answered .range s.table)
    ∧ (index ≠ 0 → index.toNat ≤ 63 → ∀ c : StreamClass, cls = c.code →
      (findEntry id s.table = none → 64 ≤ s.table.length → answered .full s.table)
      ∧ (findEntry id s.table = none → s.table.length < 64 → ∃ after : List Entry,
          answered .done after ∧ after.length = s.table.length + 1
          ∧ TableSet s.table after id (some ⟨id, c, some ⟨.trib t, .active, 0⟩, ⟨⟨false, false, false, false⟩, false⟩,
              none, ⟨0, 0, 0, 0, 0, 0, 0, ⟨0, 0⟩⟩⟩))
      ∧ (∀ e : Entry, findEntry id s.table = some e →
        (e.members.tribs.get t = true → answered .range s.table)
        ∧ (e.members.tribs.get t = false →
          (e.publisher = none → ∃ after : List Entry,
            answered .done after ∧ after.length = s.table.length
            ∧ TableSet s.table after id (some { e with publisher := some ⟨.trib t, .active, 0⟩, cls := c }))
          ∧ (∀ pub ∈ e.publisher,
            (pub.holder = .trib t → answered .done s.table)
            ∧ (pub.holder ≠ .trib t → pub.state = .held → answered .held s.table)
            ∧ (pub.holder ≠ .trib t → pub.state = .active → answered .taken s.table)))))

/-- RELEASE (R21, R24): RANGE and NOT_HELD change nothing; DONE removes the publisher, frees an entry without
subscribers, and keeps one with subscribers with its class and counters. -/
def Obligations.ReleaseCases : Prop :=
  ∀ (t : Trib) (index : Byte) (s : State) (r : Request), s.serving t (.release t index) = some r → TableOrdered s →
    let id : StreamId := ⟨s.ownBay, index⟩
    let answered := fun (result : ResultCode) (after : List Entry) =>
      exec (.release t index) s = .next (({ s.taken t with table := after }).replied t r result [])
    (index = 0 ∨ 63 < index.toNat → answered .range s.table)
    ∧ (index ≠ 0 → index.toNat ≤ 63 → (∀ e ∈ findEntry id s.table, ∀ pub ∈ e.publisher, pub.holder ≠ .trib t) →
        answered .notHeld s.table)
    ∧ (index ≠ 0 → index.toNat ≤ 63 → ∀ e ∈ findEntry id s.table, ∀ pub ∈ e.publisher, pub.holder = .trib t →
      ∃ after : List Entry, answered .done after
        ∧ TableSet s.table after id (
          if e.members = ⟨⟨false, false, false, false⟩, false⟩ then none else some { e with publisher := none }))

/-- JOIN (R18, R26 to R30): the conditions of RANGE; FULL with no entry and no free slot; otherwise Tn is a member, in
the entry that is there, whose supervision values are replaced by P and M only when their product is strictly less, or
in a new GENERAL entry, a foreign one with WAITING health, an EMPTY window and no skew under P and M. -/
def Obligations.JoinCases : Prop :=
  ∀ (t : Trib) (bay index : Byte) (p : BitVec 24) (m : Byte) (s : State) (r : Request),
    s.serving t (.join t bay index p m) = some r →
    let id : StreamId := ⟨bay, index⟩
    let own := s.ownBay
    let refused :=
      ((bay = 0 ∨ bay = 255) ∧ bay ≠ own) ∨ 63 < index.toNat ∨ p.toNat < 50 ∨ m.toNat < 2 ∨ 15 < m.toNat
      ∨ (bay = own ∧ ∃ e ∈ findEntry id s.table, ∃ pub ∈ e.publisher, pub.holder = .trib t)
      ∨ (bay = own ∧ index = 0)
    let answered := fun (result : ResultCode) (after : List Entry) =>
      exec (.join t bay index p m) s = .next (({ s.taken t with table := after }).replied t r result [])
    (refused → answered .range s.table)
    ∧ (¬ refused →
      (findEntry id s.table = none → 64 ≤ s.table.length → answered .full s.table)
      ∧ (findEntry id s.table = none → s.table.length < 64 → ∃ after : List Entry,
          answered .done after ∧ after.length = s.table.length + 1
          ∧ TableSet s.table after id (some ⟨id, .general, none,
              ⟨(⟨false, false, false, false⟩ : Quad Bool).set t true, false⟩,
              if bay = own then none
              else some ⟨p.toNat, m.toNat, .empty, .waiting, ⟨false, false⟩, ⟨none, none⟩, ⟨none, none, false⟩⟩,
              ⟨0, 0, 0, 0, 0, 0, 0, ⟨0, 0⟩⟩⟩))
      ∧ (∀ e : Entry, findEntry id s.table = some e → ∃ after : List Entry,
          answered .done after ∧ after.length = s.table.length
          ∧ TableSet s.table after id (some { e with
              members := { e.members with tribs := e.members.tribs.set t true }
              sup := e.sup.map fun sup =>
                if p.toNat * m.toNat < sup.p * sup.m then { sup with p := p.toNat, m := m.toNat } else sup })))

/-- LEAVE (R18, R21, R31, R32): RANGE and NOT_HELD change nothing; DONE removes the member, and an entry left without
subscribers loses its supervision, and is freed when it has no publisher. -/
def Obligations.LeaveCases : Prop :=
  ∀ (t : Trib) (bay index : Byte) (s : State) (r : Request),
    s.serving t (.leave t bay index) = some r → TableOrdered s →
    let id : StreamId := ⟨bay, index⟩
    let refused := ((bay = 0 ∨ bay = 255) ∧ bay ≠ s.ownBay) ∨ 63 < index.toNat
    let answered := fun (result : ResultCode) (after : List Entry) =>
      exec (.leave t bay index) s = .next (({ s.taken t with table := after }).replied t r result [])
    (refused → answered .range s.table)
    ∧ (¬ refused → (∀ e ∈ findEntry id s.table, e.members.tribs.get t = false) → answered .notHeld s.table)
    ∧ (¬ refused → ∀ e ∈ findEntry id s.table, e.members.tribs.get t = true →
      let left : Members := { e.members with tribs := e.members.tribs.set t false }
      ∃ after : List Entry, answered .done after
        ∧ TableSet s.table after id (
          if left ≠ ⟨⟨false, false, false, false⟩, false⟩ then some { e with members := left }
          else if e.publisher = none then none
          else some { e with members := left, sup := none }))

/-- DETACH (R38, R39, R100): the teardown of Tn, entry by entry as R38 says, with its delivery queues emptied into the
discarded counter, and then the reply DONE; nothing else changes, the claims and memberships of others among it. -/
def Obligations.DetachTeardown : Prop :=
  ∀ (t : Trib) (s : State) (r : Request), s.serving t (.detach t) = some r → TableOrdered s →
    ∃ after : List Entry,
      exec (.detach t) s = .next (({ s with
        table := after
        ports := s.ports.set t (tornPort { s.ports.get t with requests := (s.ports.get t).requests.tail }) }).replied
          t r .done [])
      ∧ ∀ id : StreamId, findEntry id after = (findEntry id s.table).bind (tornEntry t)

/-- The LINE requests, each RANGE for a line that is neither A nor B. ENABLE (R113, R114): RANGE with an invalid own
bay; on a line that is OFF the receiver enters SEARCH at its floor with the dwell timer started and LINE is raised to
every UP tributary (R119); on any other line nothing changes. DISABLE, tested in the order of R112: DONE without
effect on a line that is OFF, LAST_PATH while the other line is not LOCKED, and otherwise the receiver enters OFF with
both timers stopped and LINE is raised; from LOCKED the egress queues are flushed into the line-down counter with the
credit set to U, and the frame in flight stays (R132). RESTART (R111): REFUSED while OFF; in SEARCH the level becomes
the floor and the dwell timer is restarted; from LOCKED the line departs for SEARCH at the floor, with the egress
aborted and LINE raised (R130). That LINE is raised before the REPLY is placed is the model's choice (log 6). -/
def Obligations.LineRequests : Prop :=
  (∀ (t : Trib) (line : Byte) (s : State) (r : Request), s.serving t (.lineEnable t line) = some r →
      let i := Instr.lineEnable t line
      let taken := s.taken t
      (1 < line.toNat ∨ s.ownBay = 0 ∨ s.ownBay = 255 → exec i s = .next (taken.replied t r .range []))
      ∧ (s.ownBay ≠ 0 → s.ownBay ≠ 255 → ∀ l : Line, line = lineCode l →
        ((s.receivers.get l).state ≠ .off → exec i s = .next (taken.replied t r .done []))
        ∧ ((s.receivers.get l).state = .off → exec i s = .next (({ taken with
            receivers := s.receivers.set l
              ⟨.search, s.profile.floors.get l, some (s.timeBase + millis s.profile.dwell), none, 0,
                (s.receivers.get l).counters⟩
            ports := Quad.ofFn fun u => (taken.ports.get u).raise .line }).replied t r .done []))))
  ∧ (∀ (t : Trib) (line : Byte) (s : State) (r : Request), s.serving t (.lineDisable t line) = some r →
      let i := Instr.lineDisable t line
      let taken := s.taken t
      (1 < line.toNat → exec i s = .next (taken.replied t r .range []))
      ∧ (∀ l : Line, line = lineCode l →
        let rx : Receiver := s.receivers.get l
        let e : Egress := s.egresses.get l
        (rx.state = .off → exec i s = .next (taken.replied t r .done []))
        ∧ (rx.state ≠ .off → (s.receivers.get l.other).state ≠ .locked →
            exec i s = .next (taken.replied t r .lastPath []))
        ∧ (rx.state ≠ .off → (s.receivers.get l.other).state = .locked →
            exec i s = .next (({ taken with
              receivers := s.receivers.set l ⟨.off, rx.level, none, none, 0, rx.counters⟩
              egresses := if rx.state = ReceiverState.search then s.egresses else s.egresses.set l { e with
                queues := noFrames
                credit := s.profile.urgentBurst
                lineDown := e.lineDown + BitVec.ofNat 16 (e.queues.toList.map List.length).sum }
              ports := Quad.ofFn fun u => (taken.ports.get u).raise .line }).replied t r .done []))))
  ∧ (∀ (t : Trib) (line : Byte) (s : State) (r : Request), s.serving t (.lineRestart t line) = some r →
      let i := Instr.lineRestart t line
      let taken := s.taken t
      (1 < line.toNat → exec i s = .next (taken.replied t r .range []))
      ∧ (∀ l : Line, line = lineCode l →
        let rx : Receiver := s.receivers.get l
        let floor := s.profile.floors.get l
        (rx.state = .off → exec i s = .next (taken.replied t r .refused []))
        ∧ (rx.state = .search → exec i s = .next (({ taken with
            receivers := s.receivers.set l { rx with
              level := floor
              dwellTimer := some (s.timeBase + millis s.profile.dwell) } }).replied t r .done []))
        ∧ (rx.state = .locked → exec i s = .next ((taken.departed l floor rx.counters).replied t r .done []))))

/-- SETUP and MIRROR that are refused (R34, R128, R160, R168, R169): RANGE for a field out of its range, and for a
binding that names no foreign valid bay; FULL for a MIRROR when the free slots are fewer than one for each newly bound
bay without an entry and one more to turn publishing on. Nothing of a refused request is applied. -/
def Obligations.SettingsRefused : Prop :=
  (∀ (t : Trib) (f : SetupFields) (s : State) (r : Request), s.serving t (.setup t f) = some r →
      ((∃ b ∈ f.lapBudget, b.toNat < 2 ∨ 63 < b.toNat)
        ∨ (∃ b ∈ f.beaconInterval, b.toNat < 1 ∨ 100 < b.toNat)
        ∨ (∃ w ∈ f.claimHold, 60000 < w.toNat)
        ∨ (∃ codes ∈ f.serviceList, 12 < codes.length ∨ (∃ c ∈ codes, 5 < c.toNat)
            ∨ ∃ k : Nat, k ≤ 5 ∧ BitVec.ofNat 8 k ∉ codes)
        ∨ (∃ b ∈ f.urgentBurst, b.toNat < 1 ∨ 4 < b.toNat)
        ∨ (∃ b ∈ f.floorA, 15 < b.toNat) ∨ (∃ b ∈ f.floorB, 15 < b.toNat)
        ∨ (∃ b ∈ f.dwell, b.toNat < 1 ∨ 32 < b.toNat)
        ∨ (∃ w ∈ f.qualityPeriod, w.toNat < 1 ∨ 1000 < w.toNat)
        ∨ (∃ b ∈ f.qualityThreshold, b.toNat < 1)
        ∨ (∃ w ∈ f.skewLimit, 16383 < w.toNat) ↔ setupInRange f = false)
      ∧ (setupInRange f = false → exec (.setup t f) s = .next ((s.taken t).replied t r .range [])))
  ∧ (∀ (t : Trib) (f : MirrorFields) (s : State) (r : Request), s.serving t (.mirror t f) = some r →
      let before := boundBays s.mirror.outputs
      let after := boundBays (rebound s.ownBay f s.mirror.outputs)
      let needed := (after.filter fun b => decide (b ∉ before) && decide (findEntry ⟨b, 0⟩ s.table = none)).length
        + (if f.publish = some 1 ∧ s.mirror.publish = false then 1 else 0)
      ((∃ b ∈ f.publish, 1 < b.toNat) ∨ (∃ b ∈ f.debounce, b.toNat < 1 ∨ 16 < b.toNat)
        ∨ (∃ w ∈ f.refresh, w.toNat < 10 ∨ 1000 < w.toNat)
        ∨ (∃ (n : Fin 8) (g : BindingFields), f.bindings.get n = some (some g)
            ∧ (g.bay = 0 ∨ g.bay = 255 ∨ g.bay = s.ownBay ∨ 7 < g.bit.toNat ∨ 1 < g.policy.toNat ∨ 1 < g.safe.toNat))
        ↔ mirrorInRange s.ownBay f = false)
      ∧ (mirrorInRange s.ownBay f = false → exec (.mirror t f) s = .next ((s.taken t).replied t r .range []))
      ∧ (mirrorInRange s.ownBay f = true → 64 < s.table.length + needed → s.table.length ≤ 64 →
          exec (.mirror t f) s = .next ((s.taken t).replied t r .full [])))

/-- SETUP with every present field in range (R80, R110, R128, R168): every present field replaces its profile value; a
service list sets the pointer of both egresses to 0 and an urgent burst caps their credits; a floor that changes
raises the level of a SEARCH receiver below it and restarts its dwell; a skew limit that changes evaluates every
alarm, with SKEW to the tributary members of each entry whose alarm changes; and PROFILE is raised to every other UP
tributary. That a field present with the value held is no change is the model's reading (log 14), and the order SKEW,
PROFILE, REPLY its choice (log 6). -/
def Obligations.SetupApplied : Prop :=
  ∀ (t : Trib) (f : SetupFields) (s : State) (r : Request), s.serving t (.setup t f) = some r →
    setupInRange f = true →
    let held : Profile := s.profile
    let profile : Profile :=
      ⟨(f.lapBudget.map BitVec.toNat).getD held.lapBudget, (f.beaconInterval.map BitVec.toNat).getD held.beaconInterval,
        (f.claimHold.map BitVec.toNat).getD held.claimHold,
        (f.serviceList.map fun codes => codes.filterMap normalQueueOfCode).getD held.serviceList,
        (f.urgentBurst.map BitVec.toNat).getD held.urgentBurst,
        ⟨(f.floorA.map BitVec.toNat).getD held.floors.a, (f.floorB.map BitVec.toNat).getD held.floors.b⟩,
        (f.dwell.map BitVec.toNat).getD held.dwell, (f.qualityPeriod.map BitVec.toNat).getD held.qualityPeriod,
        (f.qualityThreshold.map BitVec.toNat).getD held.qualityThreshold,
        (f.skewLimit.map BitVec.toNat).getD held.skewLimit⟩
    let receiver := fun l : Line =>
      let rx : Receiver := s.receivers.get l
      let floor := profile.floors.get l
      if floor ≠ held.floors.get l ∧ rx.state = .search ∧ rx.level < floor then
        { rx with level := floor, dwellTimer := some (s.timeBase + millis profile.dwell) }
      else rx
    let egress := fun e : Egress =>
      { e with
        position := if f.serviceList = none then e.position else 0
        credit := match f.urgentBurst with | some u => min e.credit u.toNat | none => e.credit }
    let relimited := decide (profile.skewLimit ≠ held.skewLimit)
    let judged := fun sup : Supervision =>
      { sup with skew := { sup.skew with alarm := alarmOf profile.skewLimit sup.skew.e8 } }
    let told := fun u : Trib => s.table.any fun e => e.members.tribs.get u && match e.sup with
      | some sup => alarmOf profile.skewLimit sup.skew.e8 != sup.skew.alarm
      | none => false
    let port := fun u : Trib =>
      let p := (s.taken t).ports.get u
      let p := if relimited && told u then p.raise .skew else p
      if u = t then p else p.raise .profile
    exec (.setup t f) s = .next (({ s.taken t with
      profile := profile
      receivers := ⟨receiver .a, receiver .b⟩
      egresses := ⟨egress s.egresses.a, egress s.egresses.b⟩
      table := if relimited then s.table.map (fun e : Entry => { e with sup := e.sup.map judged }) else s.table
      ports := Quad.ofFn port }).replied t r .done [])

/-- MIRROR in range with slots enough, in a legal state (R33, R34, R155 to R157, R160, R162, R169): every present
setting replaces the one held; an output takes its new binding, and, where that changes, the level the source's data
or the safe level gives; the source records are those of the bays then bound; MIRROR is a member of `b/0` for exactly
those bays, under 1000 times the refresh interval and 3; own-bay/0 is made, kept or freed as publishing turns; a
request frame is built when publishing is on after it and it was turned on or a mask changes; and PROFILE is raised to
every other UP tributary. That a field present with the value held is no change (log 14) and that turning publishing off
builds no frame (log 15) are the model's readings, and PROFILE before the REPLY its choice (log 6). -/
def Obligations.MirrorApplied : Prop :=
  ∀ (t : Trib) (f : MirrorFields) (s : State) (r : Request), s.serving t (.mirror t f) = some r → Legal s →
    mirrorInRange s.ownBay f = true →
    slotsNeeded (boundBays s.mirror.outputs) (boundBays (rebound s.ownBay f s.mirror.outputs))
      (publishAfter f s.mirror.publish && !s.mirror.publish) s.table ≤ freeSlots s.table →
    let held : Mirror := s.mirror
    let bound := fun n : Fin 8 => newBinding s.ownBay (f.bindings.get n) (held.outputs.get n).binding
    let on := match f.publish with | some b => b == 1 | none => held.publish
    let mask := f.enableMask.getD held.enableMask
    let values := f.maskValues.getD held.maskValues
    let refresh := (f.refresh.map BitVec.toNat).getD held.refresh
    let before := boundBays held.outputs
    let own : StreamId := ⟨s.ownBay, 0⟩
    (∀ n : Fin 8,
      (f.bindings.get n = none → bound n = (held.outputs.get n).binding)
      ∧ (f.bindings.get n = some none → bound n = none)
      ∧ (∀ g : BindingFields, f.bindings.get n = some (some g) → ∃ b : Binding, bound n = some b ∧ b.bay = g.bay
          ∧ b.bit.val = g.bit.toNat ∧ b.policy.code = g.policy ∧ boolByte b.safeLevel = g.safe))
    ∧ ∃ (after : List Byte) (table : List Entry) (mirror : Mirror),
      (∀ b : Byte, b ∈ after ↔ ∃ n : Fin 8, ∃ x ∈ bound n, x.bay = b)
      ∧ mirror = { held with
          debounce := (f.debounce.map BitVec.toNat).getD held.debounce
          publish := on
          enableMask := mask
          maskValues := values
          refresh := refresh
          changedSet := if on = true ∧ held.publish = false then 0 else held.changedSet &&& mask
          refreshTimer := if on then held.refreshTimer else none
          outputs := mirror.outputs
          sources := mirror.sources }
      ∧ (∀ b : Byte, findSource b mirror.sources =
          if b ∉ after then none else if b ∈ before then findSource b held.sources
          else some ⟨b, entryHealth b s.table, none⟩)
      ∧ (∀ n : Fin 8, (mirror.outputs.get n).binding = bound n
          ∧ (bound n = (held.outputs.get n).binding → (mirror.outputs.get n).level = (held.outputs.get n).level)
          ∧ (bound n ≠ (held.outputs.get n).binding → (mirror.outputs.get n).level =
              match bound n with
              | none => false
              | some b =>
                match (findSource b.bay mirror.sources).bind fun x => x.data with
                | some d => if d.mask.getLsbD b.bit.val then d.states.getLsbD b.bit.val else b.safeLevel
                | none => b.safeLevel))
      ∧ (∀ b ∈ after, findEntry ⟨b, 0⟩ table = match findEntry ⟨b, 0⟩ s.table with
          | some e => some { e with
              members := { e.members with mirror := true }
              sup := e.sup.map fun sup =>
                if 1000 * refresh * 3 < sup.p * sup.m then { sup with p := 1000 * refresh, m := 3 } else sup }
          | none => some ⟨⟨b, 0⟩, .general, none, ⟨⟨false, false, false, false⟩, true⟩,
              some ⟨1000 * refresh, 3, .empty, .waiting, ⟨false, false⟩, ⟨none, none⟩, ⟨none, none, false⟩⟩,
              ⟨0, 0, 0, 0, 0, 0, 0, ⟨0, 0⟩⟩⟩)
      ∧ (∀ b ∈ before, b ∉ after → findEntry ⟨b, 0⟩ table = (findEntry ⟨b, 0⟩ s.table).bind fun e =>
          if e.members.tribs = ⟨false, false, false, false⟩ then none
          else some { e with members := { e.members with mirror := false } })
      ∧ findEntry own table = (if on = false then none else if held.publish then findEntry own s.table
          else some ⟨own, .urgent, some ⟨.mirror, .active, 0⟩, ⟨⟨false, false, false, false⟩, false⟩, none,
            ⟨0, 0, 0, 0, 0, 0, 0, ⟨0, 0⟩⟩⟩)
      ∧ (∀ id : StreamId, id ≠ own → (id.index = 0 → id.bay ∉ after ∧ id.bay ∉ before) →
          findEntry id table = findEntry id s.table)
      ∧ exec (.mirror t f) s = .next (
          let applied : State := { s.taken t with table := table, mirror := mirror }
          let framed := if on = true ∧ (held.publish = false ∨ mask ≠ held.enableMask ∨ values ≠ held.maskValues) then
            applied.contactFrame .request else applied
          ({ framed with ports := Quad.ofFn fun u =>
              if u = t then framed.ports.get u else (framed.ports.get u).raise .profile }).replied t r .done [])

/-- CLEAR (R172): the named kinds leave the requester's pending set and the others stay; with none left the report
slot is emptied, otherwise it is left as it is; the reply is DONE, and nothing else changes. Bits 9 to 15 name no kind
and are ignored. -/
def Obligations.ClearReports : Prop :=
  ∀ (t : Trib) (kinds : BitVec 16) (s : State) (r : Request), s.serving t (.clear t kinds) = some r →
    let p := s.ports.get t
    ∃ pending : ReportSet,
      (∀ k : ReportKind, pending.has k = (p.reports.has k && !kinds.getLsbD k.bit))
      ∧ exec (.clear t kinds) s = .next (({ s with ports := s.ports.set t { p with
          requests := p.requests.tail
          reports := pending
          report := p.report && decide (∃ k ∈ [ReportKind.health, .skew, .line, .ring, .overrun, .nearFull, .clash,
            .profile, .bayClash], pending.has k = true) } }).replied t r .done [])

/-- A request that stands for no other row is answered UNKNOWN without effect and without fields (R166); a LINE
request of the right length with an action outside the list is answered RANGE (R167; that it is this command is log
8). -/
def Obligations.UnknownRequest : Prop :=
  ∀ (t : Trib) (code : Byte) (fields : List Byte) (s : State) (r : Request),
    s.serving t (.requestUnknown t code fields) = some r →
    r.code = code ∧ r.fields = fields ∧ decodeRow t code fields = none
    ∧ exec (.requestUnknown t code fields) s = .next ((s.taken t).replied t r
        (if code = 6 ∧ fields.length = 2 then .range else .unknown) [])

/-- The READ requests (R61, R82, R103, R120, R135, R154, R163, R170): RANGE for an identifier or a line out of range,
NOT_HELD for a stream without an entry, and otherwise DONE with the snapshot; none changes what it reads. What the
snapshots hold is SnapshotContents (with the choices of logs 9 and 11). READ RING uses two free values for the
farthest bays where several are equally far, and nothing is said of them (log 10). -/
def Obligations.ReadRequests : Prop :=
  ∀ (t : Trib) (s : State) (r : Request),
    (∀ bay index : Byte, s.serving t (.readStream t bay index) = some r →
      let i := Instr.readStream t bay index
      let refused := ((bay = 0 ∨ bay = 255) ∧ bay ≠ s.ownBay) ∨ 63 < index.toNat
      (refused → exec i s = .next ((s.taken t).replied t r .range []))
      ∧ (¬ refused → findEntry ⟨bay, index⟩ s.table = none → exec i s = .next ((s.taken t).replied t r .notHeld []))
      ∧ (¬ refused → ∀ e ∈ findEntry ⟨bay, index⟩ s.table,
          exec i s = .next ((s.taken t).replied t r .done (streamSnapshot s.timeBase e))))
    ∧ (∀ line : Byte, s.serving t (.readLine t line) = some r →
      (1 < line.toNat → exec (.readLine t line) s = .next ((s.taken t).replied t r .range []))
      ∧ (∀ l : Line, line = lineCode l →
          exec (.readLine t line) s = .next ((s.taken t).replied t r .done (s.lineSnapshot l))))
    ∧ (s.serving t (.readRing t) = some r →
      exec (.readRing t) s = .next (({ s.taken t with freeCount := s.freeCount + 2 }).replied t r .done
        (ringSnapshot s.timeBase (Config.freePick s.freeCount) (Config.freePick (s.freeCount + 1)) s.ring)))
    ∧ (s.serving t (.readTributary t) = some r →
      exec (.readTributary t) s = .next ((s.taken t).replied t r .done ((s.taken t).portSnapshot t)))
    ∧ (s.serving t (.readProfile t) = some r →
      exec (.readProfile t) s = .next ((s.taken t).replied t r .done s.profileSnapshot))
    ∧ (s.serving t (.readMirror t) = some r →
      exec (.readMirror t) s = .next ((s.taken t).replied t r .done (mirrorSnapshot s.timeBase s.mirror)))

/-- The readings of the roster (R152), whatever value the free pick of the farthest bay takes (log 10): the neighbours
on a line are the bays with hop distance 0 there, the farthest is a bay at the largest hop distance there, and there
is one exactly when some bay is heard on the line. -/
def Obligations.RosterReadings : Prop :=
  ∀ (roster : List RosterRecord) (x : Line) (pick : Nat),
    (∀ bay : Byte, bay ∈ neighbours x roster ↔
      ∃ rec ∈ roster, rec.bay = bay ∧ ∃ part ∈ rec.parts.get x, part.hops = 0)
    ∧ (farthest x pick roster = none ↔ ∀ rec ∈ roster, rec.parts.get x = none)
    ∧ (∀ (d : Nat) (bay : Byte), farthest x pick roster = some (d, bay) →
      (∃ rec ∈ roster, rec.bay = bay ∧ ∃ part ∈ rec.parts.get x, part.hops = d)
      ∧ ∀ rec ∈ roster, ∀ part ∈ rec.parts.get x, part.hops ≤ d)
    ∧ (heardOn x roster).length = (roster.filter fun rec => (rec.parts.get x).isSome).length

/-! ### Lines -/

/-- LOCK_ACQUIRED (R107, R119): in SEARCH the receiver enters LOCKED at its level, with the dwell timer stopped, the
quality period started, the lock counted and LINE raised to every UP tributary; the queues of its egress stay as they
are. In LOCKED and OFF nothing changes. LOCK_LOST (R108, R119, R130): in LOCKED the loss is counted and the receiver
departs for SEARCH at the next level, one above the level and not below the floor, or the floor above 15; the frame in
flight is aborted, the queues are flushed into the line-down counter and LINE is raised. In SEARCH and OFF nothing
changes. -/
def Obligations.LockEvents : Prop :=
  (∀ (l : Line) (s : State),
      let rx : Receiver := s.receivers.get l
      (rx.state ≠ .search → exec (.lockAcquired l) s = .next s)
      ∧ (rx.state = .search → exec (.lockAcquired l) s = .next { s with
          receivers := s.receivers.set l
            ⟨.locked, rx.level, none, some (s.timeBase + millis s.profile.qualityPeriod), 0,
              { rx.counters with lockAcquisitions := rx.counters.lockAcquisitions + 1 }⟩
          ports := Quad.ofFn fun t => (s.ports.get t).raise .line }))
  ∧ (∀ (l : Line) (s : State),
      let rx : Receiver := s.receivers.get l
      let floor := s.profile.floors.get l
      let next := if 15 < max (rx.level + 1) floor then floor else max (rx.level + 1) floor
      (rx.state ≠ .locked → exec (.lockLost l) s = .next s)
      ∧ (rx.state = .locked → exec (.lockLost l) s = .next
          (s.departed l next { rx.counters with lockLosses := rx.counters.lockLosses + 1 })))

/-- DWELL_EXPIRY in SEARCH (R106): the level becomes one more, or the floor from 15, and the dwell timer is due again
after the profile's dwell time. QUALITY_PERIOD_EXPIRY in LOCKED (R115): the quality count returns to 0 and the timer
is due again after the profile's quality period. Neither changes anything else or raises a report. The time base reads
the due reading, unless it had passed it, and a stopped timer does not expire (logs 3 and 4). -/
def Obligations.ReceiverTimers : Prop :=
  (∀ (l : Line) (s : State),
      let rx : Receiver := s.receivers.get l
      (rx.dwellTimer = none ∨ rx.state ≠ .search → exec (.dwellExpiry l) s = .next s)
      ∧ (rx.state = .search → ∀ due ∈ rx.dwellTimer,
        let now := (s.advanceTo due).timeBase
        exec (.dwellExpiry l) s = .next { s with
          timeBase := now
          receivers := s.receivers.set l { rx with
            level := if rx.level < 15 then rx.level + 1 else s.profile.floors.get l
            dwellTimer := some (now + millis s.profile.dwell) } }))
  ∧ (∀ (l : Line) (s : State),
      let rx : Receiver := s.receivers.get l
      (rx.qualityTimer = none ∨ rx.state ≠ .locked → exec (.qualityPeriodExpiry l) s = .next s)
      ∧ (rx.state = .locked → ∀ due ∈ rx.qualityTimer,
        let now := (s.advanceTo due).timeBase
        exec (.qualityPeriodExpiry l) s = .next { s with
          timeBase := now
          receivers := s.receivers.set l { rx with
            qualityCount := 0
            qualityTimer := some (now + millis s.profile.qualityPeriod) } }))

/-- A frame received on a line that is not LOCKED is discarded, counted as an unlocked discard, and does nothing else
(R118). A frame received on a LOCKED line that is not good (R116, R117): too long and malformed frames are counted and
do nothing else; a check failure is counted and counted toward quality, and at the threshold it is a quality relock,
by which the line departs for SEARCH at the next level. -/
def Obligations.LineFrameNotGood : Prop :=
  (∀ (l : Line) (bytes : List Byte) (s : State), (s.receivers.get l).state ≠ .locked →
      let rx : Receiver := s.receivers.get l
      exec (.lineFrameReceived l bytes) s = .next { s with
        receivers := s.receivers.set l { rx with
          counters := { rx.counters with unlockedDiscards := rx.counters.unlockedDiscards + 1 } } })
  ∧ (∀ (l : Line) (bytes : List Byte) (s : State), (s.receivers.get l).state = .locked →
      let rx : Receiver := s.receivers.get l
      let floor := s.profile.floors.get l
      let next := if 15 < max (rx.level + 1) floor then floor else max (rx.level + 1) floor
      let left := fun q : Receiver => ({ s with receivers := s.receivers.set l q } : State)
      let i := Instr.lineFrameReceived l bytes
      (classifyLine bytes = .tooLong → exec i s = .next (left { rx with
        counters := { rx.counters with tooLong := rx.counters.tooLong + 1 } }))
      ∧ (classifyLine bytes = .malformed → exec i s = .next (left { rx with
        counters := { rx.counters with malformed := rx.counters.malformed + 1 } }))
      ∧ (classifyLine bytes = .checkFailure → rx.qualityCount + 1 < s.profile.qualityThreshold →
        exec i s = .next (left { rx with
          qualityCount := rx.qualityCount + 1
          counters := { rx.counters with checkFailures := rx.counters.checkFailures + 1 } }))
      ∧ (classifyLine bytes = .checkFailure → s.profile.qualityThreshold ≤ rx.qualityCount + 1 →
        exec i s = .next (s.departed l next { rx.counters with
          checkFailures := rx.counters.checkFailures + 1
          qualityRelocks := rx.counters.qualityRelocks + 1 })))

/-- LINE_END_OF_TRANSMISSION (R125, R129, R131, R132): of the frame in flight, it is counted as sent from the queue it
came from and the transmitter is free; an open egress then chooses again, and a closed one stays quiet. Of a frame
aborted earlier, nothing. With nothing in flight nothing changes (log 3). -/
def Obligations.LineEnd : Prop :=
  ∀ (l : Line) (s : State),
    let e : Egress := s.egresses.get l
    exec (.lineEndOfTransmission l .lost) s = .next s
    ∧ (e.inFlight = none → exec (.lineEndOfTransmission l .inFlight) s = .next s)
    ∧ (∀ (f : RingFrame) (q : QueueName), e.inFlight = some (f, q) →
      let free : Egress := { e with inFlight := none, sent := e.sent.set q (e.sent.get q + 1) }
      exec (.lineEndOfTransmission l .inFlight) s = .next { s with
        egresses := s.egresses.set l
          (if (s.receivers.get l).state = .locked then
            free.choose true s.profile.serviceList s.profile.urgentBurst
          else free) })

/-- A frame offered to a queue of an egress (R123, R125): refused and counted as a line-down drop while the egress is
closed; refused and counted as a drop of that queue while the queue is full; and otherwise placed at its tail, where a
free transmitter chooses. No queued frame is displaced. -/
def Obligations.EgressOffer : Prop :=
  ∀ (e : Egress) (isOpen : Bool) (list : List NormalQueue) (burst : Nat) (q : QueueName) (f : RingFrame),
    let capacity := match q with
      | .urgent => 16
      | .normal .fwd => 32
      | .normal (.loc _) => 8
      | .normal .own => 4
    let offered := e.offer isOpen list burst q f
    (isOpen = false → offered = { e with lineDown := e.lineDown + 1 })
    ∧ (isOpen = true → capacity ≤ (e.queues.get q).length →
        offered = { e with drops := e.drops.set q (e.drops.get q + 1) })
    ∧ (isOpen = true → (e.queues.get q).length < capacity →
        let placed : Egress := { e with queues := e.queues.set q (e.queues.get q ++ [f]) }
        (e.inFlight ≠ none → offered = placed)
        ∧ (e.inFlight = none → offered = placed.choose true list burst)
        ∧ (e.inFlight = none → e.queues = noFrames → q ∈ QueueName.urgent :: list.map .normal →
            offered.inFlight = some (f, q) ∧ offered.queues = noFrames))

/-- The arbiter's choice of a free transmitter, with a service list that names the six normal queues (R125 to R127):
an urgent choice when the urgent queue holds a frame and the credit is above 0 or every normal queue is empty, with
the credit one less and not below 0; and otherwise the first position from the pointer on, around the list, whose
queue holds a frame, with the pointer past it and the credit refilled. With every queue empty there is no choice. -/
def Obligations.ArbiterChoice : Prop :=
  ∀ (e : Egress) (list : List NormalQueue) (burst : Nat), e.inFlight = none → (∀ q : NormalQueue, q ∈ list) →
    let normal := fun q : NormalQueue => e.queues.get (.normal q)
    (e.queues = noFrames → e.choose true list burst = e)
    ∧ (∀ (f : RingFrame) (rest : List RingFrame), e.queues.urgent = f :: rest →
      0 < e.credit ∨ (∀ q : NormalQueue, normal q = []) →
        e.choose true list burst = { e with
          queues := { e.queues with urgent := rest }
          inFlight := some (f, .urgent)
          credit := e.credit - 1 })
    ∧ (e.queues.urgent = [] ∨ e.credit = 0 → (∃ q : NormalQueue, normal q ≠ []) →
      ∃ (k : Nat) (q : NormalQueue) (f : RingFrame) (rest : List RingFrame),
        k < list.length
        ∧ list[(e.position + k) % list.length]? = some q
        ∧ (∀ j : Nat, j < k → ∀ p : NormalQueue, list[(e.position + j) % list.length]? = some p → normal p = [])
        ∧ normal q = f :: rest
        ∧ e.choose true list burst = { e with
            queues := e.queues.set (.normal q) rest
            inFlight := some (f, .normal q)
            position := ((e.position + k) % list.length + 1) % list.length
            credit := burst })

/-! ### The ring unit -/

/-- A good STREAM frame of the own bay (R137): counted as returned-own beside the receiver's count of good frames, and
neither forwarded nor offered, whatever its lap, class and index. -/
def Obligations.OwnFrameRemoved : Prop :=
  ∀ (l : Line) (bytes : List Byte) (s : State) (f : RingFrame) (cls : StreamClass),
    (s.receivers.get l).state = .locked → classifyLine bytes = .good f → f.kind = .stream cls → f.origin = s.ownBay →
    let rx : Receiver := s.receivers.get l
    exec (.lineFrameReceived l bytes) s = .next { s with
      receivers := s.receivers.set l { rx with counters := { rx.counters with good := rx.counters.good + 1 } }
      ring := { s.ring with counters := { s.ring.counters with returnedOwn := s.ring.counters.returnedOwn + 1 } } }

/-- A good STREAM frame of a foreign bay whose identifier has no entry (R5, R138, R139): with lap 0 it is counted as
lap-expired, and otherwise a copy with lap one less and every other field kept is offered to the other line, in the
urgent queue for URGENT and in FWD otherwise; and it is counted as passed. -/
def Obligations.ForeignFramePassed : Prop :=
  ∀ (l : Line) (bytes : List Byte) (s : State) (f : RingFrame) (cls : StreamClass),
    (s.receivers.get l).state = .locked → classifyLine bytes = .good f → f.kind = .stream cls → f.origin ≠ s.ownBay →
    findEntry ⟨f.origin, f.index⟩ s.table = none →
    let rx : Receiver := s.receivers.get l
    let y := l.other
    let queue := if cls = .urgent then QueueName.urgent else .normal .fwd
    let copy : RingFrame := ⟨.stream cls, f.origin, f.index, f.lap - 1, f.seq, f.payload⟩
    exec (.lineFrameReceived l bytes) s = .next { s with
      receivers := s.receivers.set l { rx with counters := { rx.counters with good := rx.counters.good + 1 } }
      egresses :=
        if f.lap = 0 then s.egresses
        else s.egresses.set y
          ((s.egresses.get y).offer (s.isOpen y) s.profile.serviceList s.profile.urgentBurst queue copy)
      ring := { s.ring with counters := { s.ring.counters with
        lapExpired := if f.lap = 0 then s.ring.counters.lapExpired + 1 else s.ring.counters.lapExpired
        passed := s.ring.counters.passed + 1 } } }

/-- A good STREAM frame of a foreign bay whose entry is supervised (R17, R43, R52 to R56, R65, R73 to R75, R80): the
frame is forwarded as one without an entry is, and the arrival is one operation on the entry. Its class, window,
health, skew and counters are set, the verdict being that of the window; then each tributary member is given, in this
order, a HEALTH report where the health changed, a RESTORED notice where it was LOST, a SKEW report where the alarm
changed, and the DATA record where the verdict delivers; and the contact mirror is told of the health and the data
where it is a member. The order within the operation is that of the rules' text (log 6). -/
def Obligations.ForeignArrival : Prop :=
  ∀ (l : Line) (bytes : List Byte) (s : State) (f : RingFrame) (cls : StreamClass) (e : Entry) (sup : Supervision),
    (s.receivers.get l).state = .locked → classifyLine bytes = .good f → f.kind = .stream cls → f.origin ≠ s.ownBay →
    let id : StreamId := ⟨f.origin, f.index⟩
    findEntry id s.table = some e → e.sup = some sup →
    let rx : Receiver := s.receivers.get l
    let y := l.other
    let queue := if cls = .urgent then QueueName.urgent else .normal .fwd
    let copy : RingFrame := ⟨.stream cls, f.origin, f.index, f.lap - 1, f.seq, f.payload⟩
    let judged := sup.window.judge f.seq
    let heard := sup.hear l s.timeBase
    let skew := sup.skew.arrive s.profile.skewLimit judged.verdict f.seq l s.timeBase
    let arrived := match l with
      | .a => { e.counters with arrivals := ⟨e.counters.arrivals.a + 1, e.counters.arrivals.b⟩ }
      | .b => { e.counters with arrivals := ⟨e.counters.arrivals.a, e.counters.arrivals.b + 1⟩ }
    let record : DeliveryRecord :=
      ⟨.data, id, f.seq, .line l, decide (judged.verdict = .late), decide (judged.verdict = .resync),
        (match judged.verdict with | .ahead gap => if gap = 0 then none else some gap | _ => none),
        .supervised heard.health, f.payload⟩
    let port := fun p : Port =>
      let p := if heard.health = sup.health then p else p.raise .health
      let p := if sup.health = .lost then
          p.offerNotice ⟨.restored, id, 0, .none, false, false, none, .supervised .dual, []⟩ else p
      let p := if skew.alarm = sup.skew.alarm then p else p.raise .skew
      if judged.verdict.delivers then p.offerData (decide (cls = .urgent)) record else p
    let told := if heard.health = sup.health then s.mirror else s.mirror.hearHealth f.origin heard.health
    ∃ after : List Entry,
      TableSet s.table after id (some { e with
        cls := cls
        sup := some { heard with window := judged.window, skew := skew }
        counters := arrived.count judged.verdict judged.lost })
      ∧ exec (.lineFrameReceived l bytes) s = .next { s with
        receivers := s.receivers.set l { rx with counters := { rx.counters with good := rx.counters.good + 1 } }
        egresses :=
          if f.lap = 0 then s.egresses
          else s.egresses.set y
            ((s.egresses.get y).offer (s.isOpen y) s.profile.serviceList s.profile.urgentBurst queue copy)
        ring :=
          if f.lap = 0 then { s.ring with counters := { s.ring.counters with
            lapExpired := s.ring.counters.lapExpired + 1 } }
          else s.ring
        table := after
        ports := Quad.ofFn fun t => if e.members.tribs.get t then port (s.ports.get t) else s.ports.get t
        mirror :=
          if e.members.mirror then
            if judged.verdict.delivers then told.hearData f.origin judged.verdict f.payload else told
          else s.mirror }

/-- A good own beacon that arrives on line X (R144, R145): with a record of its sequence outstanding for the other
line and a body lap budget of at most 63 and not below its lap, the record is removed, and the direction's return age,
last return, round trip and node count are set; otherwise the bay clash is counted and BAYCLASH raised to every UP
tributary. It is not forwarded in either case. -/
def Obligations.OwnBeaconReturn : Prop :=
  ∀ (l : Line) (bytes : List Byte) (s : State) (f : RingFrame) (budget interval state : Byte),
    (s.receivers.get l).state = .locked → classifyLine bytes = .good f → f.kind = .beacon → f.origin = s.ownBay →
    f.payload = [budget, interval, state] →
    let rx : Receiver := s.receivers.get l
    let y := l.other
    let received : State := { s with
      receivers := s.receivers.set l { rx with counters := { rx.counters with good := rx.counters.good + 1 } } }
    let fits := budget.toNat ≤ 63 ∧ f.lap.toNat ≤ budget.toNat
    (fits → ∀ (before later : List Outstanding) (rec : Outstanding),
      s.ring.outstanding.get y = before ++ rec :: later → rec.seq = f.seq → (∀ o ∈ before, o.seq ≠ f.seq) →
      exec (.lineFrameReceived l bytes) s = .next { received with
        ring := { s.ring with
          outstanding := s.ring.outstanding.set y (before ++ later)
          lastReturn := s.ring.lastReturn.set y (some s.timeBase)
          returnAge := s.ring.returnAge.set y 0
          measured := s.ring.measured.set y
            (some ⟨s.timeBase - rec.sendTime, budget.toNat - f.lap.toNat + 1⟩) } })
    ∧ (¬ fits ∨ (∀ o ∈ s.ring.outstanding.get y, o.seq ≠ f.seq) →
      exec (.lineFrameReceived l bytes) s = .next { received with
        ring := { s.ring with counters := { s.ring.counters with bayClash := s.ring.counters.bayClash + 1 } }
        ports := Quad.ofFn fun t => (s.ports.get t).raise .bayClash })

/-- A good beacon of a foreign bay that arrives on line X (R5, R149, R150): it is forwarded, or counted as
lap-expired, as a stream frame is, by FWD and with its body unchanged; and where its body passes the check the bay's
part X is set in the roster with its hop distance, the arrival time, the expiry three of its intervals later and its
ring state, every other part as it was; a new bay that finds 63 records is counted as roster-full, and a body that
fails the check as a beacon reject. -/
def Obligations.ForeignBeacon : Prop :=
  ∀ (l : Line) (bytes : List Byte) (s : State) (f : RingFrame) (budget interval state : Byte),
    (s.receivers.get l).state = .locked → classifyLine bytes = .good f → f.kind = .beacon → f.origin ≠ s.ownBay →
    f.payload = [budget, interval, state] →
    let rx : Receiver := s.receivers.get l
    let y := l.other
    let copy : RingFrame := ⟨.beacon, f.origin, f.index, f.lap - 1, f.seq, f.payload⟩
    let passes := f.origin ≠ 0 ∧ f.origin ≠ 255 ∧ f.lap.toNat ≤ budget.toNat ∧ budget.toNat ≤ 63
      ∧ 1 ≤ interval.toNat ∧ interval.toNat ≤ 100 ∧ state.toNat ≤ 3
    let known := ∃ rec ∈ s.ring.roster, rec.bay = f.origin
    let expired := if f.lap = 0 then s.ring.counters.lapExpired + 1 else s.ring.counters.lapExpired
    let left := fun ring : RingUnit => ({ s with
      receivers := s.receivers.set l { rx with counters := { rx.counters with good := rx.counters.good + 1 } }
      egresses :=
        if f.lap = 0 then s.egresses
        else s.egresses.set y ((s.egresses.get y).offer (s.isOpen y) s.profile.serviceList s.profile.urgentBurst
          (.normal .fwd) copy)
      ring := ring } : State)
    (¬ passes → exec (.lineFrameReceived l bytes) s = .next (left { s.ring with counters := { s.ring.counters with
      lapExpired := expired
      beaconRejects := s.ring.counters.beaconRejects + 1 } }))
    ∧ (passes → ¬ known → 63 ≤ s.ring.roster.length →
      exec (.lineFrameReceived l bytes) s = .next (left { s.ring with counters := { s.ring.counters with
        lapExpired := expired
        rosterFull := s.ring.counters.rosterFull + 1 } }))
    ∧ (passes → known ∨ s.ring.roster.length < 63 → ∃ (roster : List RosterRecord) (reported : RingState),
      reported.code = state
      ∧ exec (.lineFrameReceived l bytes) s = .next (left { s.ring with
        roster := roster
        counters := { s.ring.counters with lapExpired := expired } })
      ∧ findPart f.origin l roster = some ⟨budget.toNat - f.lap.toNat, s.timeBase,
          s.timeBase + BitVec.ofNat 32 (3000 * interval.toNat), reported⟩
      ∧ (∀ (bay : Byte) (x : Line), (bay, x) ≠ (f.origin, l) → findPart bay x roster = findPart bay x s.ring.roster)
      ∧ (known → roster.length = s.ring.roster.length)
      ∧ (¬ known → roster.length = s.ring.roster.length + 1))

/-- BEACON_TIMER_EXPIRY of a running timer (R9, R141 to R143, R147, R148): the timer is due again after the beacon
interval; the sequence advances; from the third emission on the ring state is evaluated from the return ages, with
RING raised to every UP tributary where it changes; a beacon with the lap budget, the interval and that ring state is
offered to OWN of each LOCKED line, with an outstanding record where the queue has room, a record of the same sequence
(that this one leaves is log 17) and then the oldest of four removed first; and both return ages advance up to 3. The
time base reads the due reading, unless it had passed it; a stopped timer does not expire (logs 3 and 4). -/
def Obligations.BeaconEmission : Prop :=
  ∀ s : State,
    (s.ring.beaconTimer = none → exec .beaconTimerExpiry s = .next s)
    ∧ (∀ due ∈ s.ring.beaconTimer,
      let now := (s.advanceTo due).timeBase
      let ages := s.ring.returnAge
      let ring : RingState :=
        if s.ring.tally < 2 then s.ring.state
        else if ages.a ≤ 2 ∧ ages.b ≤ 2 then .closed
        else if ages.a ≤ 2 ∨ ages.b ≤ 2 then .half
        else .opened
      let seq := s.ring.beaconSeq + 1
      let budget := BitVec.ofNat 8 s.profile.lapBudget
      let beacon : RingFrame :=
        ⟨.beacon, s.ownBay, 0, budget, seq, [budget, BitVec.ofNat 8 s.profile.beaconInterval, ring.code]⟩
      let egress := fun l : Line =>
        if (s.receivers.get l).state = .locked then
          (s.egresses.get l).offer true s.profile.serviceList s.profile.urgentBurst (.normal .own) beacon
        else s.egresses.get l
      let outstanding := fun l : Line =>
        let list := (s.ring.outstanding.get l).filter fun o => decide (o.seq ≠ seq)
        if (s.receivers.get l).state = .locked ∧ (s.egresses.get l).queues.own.length < 4 then
          (if list.length < 4 then list else list.tail) ++ [⟨seq, now⟩]
        else s.ring.outstanding.get l
      exec .beaconTimerExpiry s = .next { s with
        timeBase := now
        egresses := ⟨egress .a, egress .b⟩
        ports := if ring = s.ring.state then s.ports else Quad.ofFn fun t => (s.ports.get t).raise .ring
        ring := { s.ring with
          beaconSeq := seq
          beaconTimer := some (now + millis s.profile.beaconInterval)
          tally := if s.ring.tally < 3 then s.ring.tally + 1 else 3
          state := ring
          outstanding := ⟨outstanding .a, outstanding .b⟩
          returnAge := ⟨if ages.a < 3 then ages.a + 1 else 3, if ages.b < 3 then ages.b + 1 else 3⟩ } })

/-- ROSTER_EXPIRY of a part that is there, in a ring unit with a legal roster (R150, R151): the part is gone and every
other part is as it was, and the bay's record is gone with its last part; nothing else changes. The time base reads
the expiry, unless it had passed it; a part that is not there does not expire (logs 3 and 4). -/
def Obligations.RosterExpiry : Prop :=
  ∀ (bay : Byte) (l : Line) (s : State),
    (findPart bay l s.ring.roster = none → exec (.rosterExpiry bay l) s = .next s)
    ∧ (RingLegal s.bayValid s.ring → ∀ part ∈ findPart bay l s.ring.roster, ∃ roster : List RosterRecord,
      exec (.rosterExpiry bay l) s = .next { s.advanceTo part.expiry with ring := { s.ring with roster := roster } }
      ∧ findPart bay l roster = none
      ∧ (∀ (b : Byte) (x : Line), (b, x) ≠ (bay, l) → findPart b x roster = findPart b x s.ring.roster)
      ∧ ((∃ rec ∈ roster, rec.bay = bay) ↔ findPart bay l.other s.ring.roster ≠ none))

/-! ### The contact mirror -/

/-- CONTACT_SAMPLE (R155, R156): an input whose level agrees with its accepted state has its run count at 0; the level
that disagrees for as many samples as the debounce count is accepted, with the run count back at 0; one that disagrees
for fewer counts on. Each accepted change is counted, and each of an enabled input in the change counter and, while
publishing is on, in the changed set; and where one is enabled while publishing is on, a change frame is built (R157).
The sample is taken at its due reading (log 4), and the levels are kept for the next sample of the part's own (log
12). -/
def Obligations.ContactSample : Prop :=
  ∀ (levels : Byte) (s : State), ∃ (mirror : Mirror) (changes : Byte),
    let m : Mirror := s.mirror
    let enabled := changes &&& m.enableMask
    let count := fun b : Byte => ((List.range 8).filter fun n => b.getLsbD n).length
    (∀ n : Fin 8,
      let c := m.inputs.get n
      let level := levels.getLsbD n.val
      (level = c.accepted → changes.getLsbD n.val = false ∧ mirror.inputs.get n = ⟨c.accepted, 0⟩)
      ∧ (level ≠ c.accepted → m.debounce ≤ c.run + 1 →
          changes.getLsbD n.val = true ∧ mirror.inputs.get n = ⟨level, 0⟩)
      ∧ (level ≠ c.accepted → c.run + 1 < m.debounce →
          changes.getLsbD n.val = false ∧ mirror.inputs.get n = ⟨c.accepted, c.run + 1⟩))
    ∧ mirror = { m with
        inputs := mirror.inputs
        sampleDue := m.sampleDue + 250
        changeCounter := m.changeCounter + BitVec.ofNat 8 (count enabled)
        changedSet := if m.publish then m.changedSet ||| enabled else m.changedSet
        counters := { m.counters with
          acceptedChanges := m.counters.acceptedChanges + BitVec.ofNat 16 (count changes) } }
    ∧ (let sampled : State := { s.advanceTo m.sampleDue with inPins := levels, mirror := mirror }
      exec (.contactSample levels) s = .next (
        if m.publish = true ∧ enabled ≠ 0 then sampled.contactFrame .change else sampled))

/-- A contact frame, of any of the three kinds (R10, R157 to R159), while own-bay/0 has its publisher: it carries the
accepted states with the mask values of the disabled inputs, the enable mask, the change counter and the changed set;
its sequence is the entry's counter and its lap the lap budget; one copy is offered to the urgent queue of each line;
the counter advances, the intake and the frame of its kind are counted, the changed set is emptied and the refresh
timer is due after the refresh interval. REFRESH_TIMER_EXPIRY (R157): a refresh frame is built when the running timer
expires while publishing is on, and otherwise nothing changes. The time base reads the due reading, unless it had
passed it (logs 3 and 4). -/
def Obligations.ContactFrame : Prop :=
  (∀ (k : ContactFrameKind) (s : State) (e : Entry) (pub : Publisher),
      findEntry ⟨s.ownBay, 0⟩ s.table = some e → e.publisher = some pub →
      let m : Mirror := s.mirror
      ∃ (after : List Entry) (states : Byte),
        let frame : RingFrame := ⟨.stream .urgent, s.ownBay, 0, BitVec.ofNat 8 s.profile.lapBudget, pub.seq,
          [states, m.enableMask, m.changeCounter, m.changedSet &&& m.enableMask]⟩
        (∀ n : Fin 8, states.getLsbD n.val =
          if m.enableMask.getLsbD n.val then (m.inputs.get n).accepted else m.maskValues.getLsbD n.val)
        ∧ TableSet s.table after ⟨s.ownBay, 0⟩ (some { e with
            publisher := some { pub with seq := pub.seq + 1 }
            counters := { e.counters with intakes := e.counters.intakes + 1 } })
        ∧ s.contactFrame k = { s with
            table := after
            egresses := ⟨
              s.egresses.a.offer (s.isOpen .a) s.profile.serviceList s.profile.urgentBurst .urgent frame,
              s.egresses.b.offer (s.isOpen .b) s.profile.serviceList s.profile.urgentBurst .urgent frame⟩
            mirror := { m with
              changedSet := 0
              refreshTimer := some (s.timeBase + millis m.refresh)
              counters := match k with
                | .change => { m.counters with changeFrames := m.counters.changeFrames + 1 }
                | .refresh => { m.counters with refreshFrames := m.counters.refreshFrames + 1 }
                | .request => { m.counters with requestFrames := m.counters.requestFrames + 1 } } })
  ∧ (∀ s : State,
      (s.mirror.refreshTimer = none ∨ s.mirror.publish = false → exec .refreshTimerExpiry s = .next s)
      ∧ (s.mirror.publish = true → ∀ due ∈ s.mirror.refreshTimer,
        exec .refreshTimerExpiry s = .next ((s.advanceTo due).contactFrame .refresh)))

/-- What the contact outputs do with what the mirror is told of a bay (R75, R161): a DATA record that is not late and
holds at least four bytes gives the source's data and, to each output bound to the bay whose bit is enabled, its
level; the entry into LOST drops the data and gives each SAFE output its safe level; any other change of health is kept
in the source record; and every other output, binding, source record and field of the mirror is as it was. -/
def Obligations.ContactOutputs : Prop :=
  ∀ (m : Mirror) (bay : Byte) (n : Fin 8) (b : Byte),
    (∀ (v : Verdict) (states mask x y : Byte) (rest : List Byte), v ≠ .late →
      let after := m.hearData bay v (states :: mask :: x :: y :: rest)
      (after.outputs.get n).binding = (m.outputs.get n).binding
      ∧ (after.outputs.get n).level = (match (m.outputs.get n).binding with
          | some g => if g.bay = bay ∧ mask.getLsbD g.bit.val = true then states.getLsbD g.bit.val
              else (m.outputs.get n).level
          | none => (m.outputs.get n).level)
      ∧ (findSource b after.sources = (findSource b m.sources).map fun r =>
          if b = bay then { r with data := some ⟨states, mask⟩ } else r)
      ∧ after = { m with outputs := after.outputs, sources := after.sources })
    ∧ (∀ (v : Verdict) (payload : List Byte), v = .late ∨ payload.length < 4 → m.hearData bay v payload = m)
    ∧ (let after := m.hearLost bay
      (after.outputs.get n).binding = (m.outputs.get n).binding
      ∧ (after.outputs.get n).level = (match (m.outputs.get n).binding with
          | some g => if g.bay = bay ∧ g.policy = .safe then g.safeLevel else (m.outputs.get n).level
          | none => (m.outputs.get n).level)
      ∧ (findSource b after.sources = (findSource b m.sources).map fun r =>
          if b = bay then { r with health := .lost, data := none } else r)
      ∧ after = { m with outputs := after.outputs, sources := after.sources })
    ∧ (∀ h : Health, m.hearHealth bay h = { m with sources := (m.hearHealth bay h).sources }
      ∧ findSource b (m.hearHealth bay h).sources = (findSource b m.sources).map fun r =>
          if b = bay then { r with health := h } else r)

/-! ### What every step keeps -/

/-- Every step keeps every tributary port legal: its queues within their capacities, nothing held while DOWN, nothing
waiting while the transmitter is free, no REPORT for an empty pending set and no claim-hold timer while UP (R39, R85,
R86, R94, R98, R164, R172). -/
def Obligations.PortsKept : Prop :=
  ∀ s u : State, PortsLegal s → step s = .next u → PortsLegal u

/-- Every step keeps the profile in its ranges and the lines legal: each receiver at a level of 0 to 15, in SEARCH not
below its floor, with the timers of its state, OFF with an invalid own bay; each egress with its queues within their
capacities and empty while it is closed or its transmitter free, its credit at most U and its pointer in the service
list (R104, R105, R114, R121 to R130, R168). -/
def Obligations.LinesKept : Prop :=
  ∀ s u : State, ProfileLegal s.profile → ReceiversLegal s → EgressesLegal s → step s = .next u →
    ProfileLegal u.profile ∧ ReceiversLegal u ∧ EgressesLegal u

/-- Every step keeps every supervised entry legal: P and M in range, at most 31 distinct missing numbers, each within
31 behind the front, a stale run of at most 3, a timer running exactly while its line is live, the health that the
live flags give, the window EMPTY exactly in WAITING and LOST, the accumulator in its bounds, the probe at the front,
and the alarm as the skew limit gives it (R16, R40, R42, R62 to R64, R76, R79, R80). -/
def Obligations.SupervisionsKept : Prop :=
  ∀ s u : State, SupervisionsLegal s → AlarmsEvaluated s → MirrorLegal s.mirror → step s = .next u →
    SupervisionsLegal u ∧ AlarmsEvaluated u

/-- Every step keeps the ring unit legal: UNKNOWN exactly before the third emission, at most 4 outstanding records a
line with distinct sequences, return ages of at most 3, node counts of 1 to 64, and a roster of at most 63 bays in
order, each with a part and no part above 63 hops (R136, R141 to R150). -/
def Obligations.RingKept : Prop :=
  ∀ s u : State, RingLegal s.bayValid s.ring → step s = .next u → RingLegal u.bayValid u.ring

/-- Every step keeps the whole part legal, the stream table and the contact mirror with it: at most 64 entries, each
identifier once, every entry with a publisher or a subscriber and with supervision exactly when foreign, no tributary
both publisher and subscriber, the contact entry there exactly while publishing is on, MIRROR a member and a source
record held for exactly the bound bays, each with the health of its entry, and an output that is to show its safe
level showing it (R3, R16, R18, R20 to R22, R33, R34, R75, R160, R161). -/
def Obligations.LegalKept : Prop :=
  ∀ s u : State, Legal s → step s = .next u → Legal u

/-! ### What the snapshots of READ hold -/

/-- What the six snapshots hold (R61, R82, R103, R120, R135, R154, R163, R168, R170), field by field in the order of the
rules, with the code of every named value. The encodings that R170 leaves open are those of log 9, and the orders of
lists that no rule gives are those of log 11; the bay READ RING names as farthest is RosterReadings'. -/
def Obligations.SnapshotContents : Prop :=
  let yes := fun b : Bool => (if b then 1 else 0 : Byte)
  let one := fun n : Nat => BitVec.ofNat 8 n
  let left := fun (now : Time) (timer : Option Time) => timer.elim [0] fun due => 1 :: fourBytes (due - now)
  (∀ (now : Time) (e : Entry),
      let c := e.counters
      let opening := [e.id.bay, e.id.index, e.cls.code]
        ++ (match e.publisher with
          | some p => [1, p.holder.code, p.state.code, 1] ++ twoBytes p.seq
          | none => [0, 0])
        ++ [e.members.bits] ++ twoBytes c.intakes
      (e.sup = none → streamSnapshot now e = opening ++ [5])
      ∧ (∀ sup ∈ e.sup, streamSnapshot now e = opening
        ++ (match sup.window with
          | .empty => [0, 0, 0, 0]
          | .active front missing run =>
            [1, 1] ++ twoBytes front ++ [one missing.length] ++ missing.flatMap twoBytes ++ [one run])
        ++ [c.accepted, c.duplicate, c.late, c.stale, c.lost, c.resync].flatMap twoBytes
        ++ [sup.health.code, yes sup.live.a, yes sup.live.b] ++ left now sup.silence.a ++ left now sup.silence.b
        ++ threeBytes (BitVec.ofNat 24 sup.p) ++ [one sup.m] ++ fourBytes (BitVec.ofNat 32 (sup.p * sup.m))
        ++ (match sup.skew.e8 with
          | some e8 => 1 :: threeBytes (BitVec.ofInt 24 e8) ++ 1 :: twoBytes (BitVec.ofInt 16 (reportedSkew e8))
          | none => [0, 0])
        ++ [yes sup.skew.alarm]
        ++ (match sup.skew.probe with
          | some probe => 1 :: twoBytes probe.seq ++ [lineCode probe.line]
          | none => [0])
        ++ twoBytes c.arrivals.a ++ twoBytes c.arrivals.b))
  ∧ (∀ (s : State) (l : Line),
      let rx : Receiver := s.receivers.get l
      let k := rx.counters
      let e : Egress := s.egresses.get l
      s.lineSnapshot l = [rx.state.code, one rx.level, one (s.profile.floors.get l)] ++ left s.timeBase rx.dwellTimer
        ++ (match rx.qualityTimer with
          | some due => [1, one rx.qualityCount] ++ fourBytes (due - s.timeBase)
          | none => [0])
        ++ [k.good, k.checkFailures, k.malformed, k.tooLong, k.unlockedDiscards, k.lockAcquisitions, k.lockLosses,
          k.qualityRelocks].flatMap twoBytes
        ++ [yes (decide (rx.state = .locked)), one e.queues.urgent.length, one e.queues.fwd.length,
          one e.queues.loc.t0.length, one e.queues.loc.t1.length, one e.queues.loc.t2.length,
          one e.queues.loc.t3.length, one e.queues.own.length, one e.credit, one e.position]
        ++ (match e.inFlight with
          | some (_, queue) => [1, queue.code]
          | none => [0])
        ++ [e.sent.urgent, e.sent.fwd, e.sent.loc.t0, e.sent.loc.t1, e.sent.loc.t2, e.sent.loc.t3, e.sent.own,
          e.drops.urgent, e.drops.fwd, e.drops.loc.t0, e.drops.loc.t1, e.drops.loc.t2, e.drops.loc.t3, e.drops.own,
          e.lineDown, e.aborts].flatMap twoBytes)
  ∧ (∀ (now : Time) (pickA pickB : Nat) (r : RingUnit),
      let k := r.counters
      let direction := fun y : Line =>
        (match r.measured.get y with
          | some d => 1 :: fourBytes d.roundTrip ++ [one d.nodes]
          | none => [0])
        ++ (r.lastReturn.get y).elim [0] (fun reading => 1 :: fourBytes reading)
        ++ [one (r.returnAge.get y), one (r.outstanding.get y).length]
      let readings := fun (x : Line) (pick : Nat) =>
        one (neighbours x r.roster).length :: neighbours x r.roster
        ++ (match farthest x pick r.roster with
          | some (d, bay) => [1, one d, bay]
          | none => [0])
        ++ [one (heardOn x r.roster).length]
      let part := fun p : Option RosterPart => match p with
        | some p => [1, one p.hops] ++ fourBytes (now - p.heard) ++ fourBytes (p.expiry - now) ++ [p.reported.code]
        | none => [0]
      ringSnapshot now pickA pickB r = [r.state.code] ++ twoBytes r.beaconSeq ++ direction .a ++ direction .b
        ++ readings .a pickA ++ readings .b pickB
        ++ one r.roster.length :: r.roster.flatMap (fun rec => rec.bay :: part rec.parts.a ++ part rec.parts.b)
        ++ [k.returnedOwn, k.lapExpired, k.passed, k.bayClash, k.beaconRejects, k.rosterFull].flatMap twoBytes)
  ∧ (∀ (s : State) (t : Trib),
      let p : Port := s.ports.get t
      let k := p.counters
      let claims := s.table.filterMap fun e => match e.publisher with
        | some pub => if pub.holder = .trib t then some ([e.id.index, e.cls.code] ++ twoBytes pub.seq) else none
        | none => none
      let joined := s.table.filter fun e => e.members.tribs.get t
      s.portSnapshot t = [p.link.code, one p.urgentQ.length, one p.normalQ.length, yes p.report]
        ++ twoBytes (p.reports.setWidth 16)
        ++ [k.good, k.malformed, k.intakes, k.unclaimed, k.clash, k.overrun, k.discarded, k.delivered, k.aborts,
          k.linkLosses, k.requestOverrun].flatMap twoBytes
        ++ one claims.length :: claims.flatten
        ++ one joined.length :: joined.flatMap (fun e => [e.id.bay, e.id.index]))
  ∧ (∀ s : State,
      let p := s.profile
      s.profileSnapshot = [one p.lapBudget, one p.beaconInterval] ++ twoBytes (BitVec.ofNat 16 p.claimHold)
        ++ one p.serviceList.length :: p.serviceList.map NormalQueue.code
        ++ [one p.urgentBurst, one p.floors.a, one p.floors.b, one p.dwell]
        ++ twoBytes (BitVec.ofNat 16 p.qualityPeriod) ++ [one p.qualityThreshold]
        ++ twoBytes (BitVec.ofNat 16 p.skewLimit)
        ++ [s.ownBay, yes (decide (s.ownBay ≠ 0 ∧ s.ownBay ≠ 255))])
  ∧ (∀ (now : Time) (m : Mirror),
      let k := m.counters
      mirrorSnapshot now m =
        (List.finRange 8).flatMap (fun n => [yes (m.inputs.get n).accepted, one (m.inputs.get n).run])
        ++ [one m.debounce, yes m.publish, m.enableMask, m.maskValues] ++ twoBytes (BitVec.ofNat 16 m.refresh)
        ++ [m.changeCounter, m.changedSet] ++ left now m.refreshTimer
        ++ (List.finRange 8).flatMap (fun n =>
          (match (m.outputs.get n).binding with
            | some b => [1, b.bay, one b.bit.val, b.policy.code, yes b.safeLevel]
            | none => [0])
          ++ [yes (m.outputs.get n).level])
        ++ one m.sources.length :: m.sources.flatMap (fun x => [x.bay, x.health.code]
          ++ (match x.data with
            | some d => [1, d.states, d.mask]
            | none => [0]))
        ++ [k.acceptedChanges, k.changeFrames, k.refreshFrames, k.requestFrames].flatMap twoBytes)
  ∧ (∀ m : Members, (∀ t : Trib, m.bits.getLsbD t.toNat = m.tribs.get t) ∧ m.bits.getLsbD 4 = m.mirror
      ∧ m.bits.toNat < 32)
  ∧ [StreamClass.urgent, .periodic, .general].map StreamClass.code = [1, 2, 3]
  ∧ [Holder.trib .t0, .trib .t1, .trib .t2, .trib .t3, .mirror].map Holder.code = [0, 1, 2, 3, 4]
  ∧ [PublisherState.active, .held].map PublisherState.code = [0, 1]
  ∧ [Health.waiting, .dual, .singleA, .singleB, .lost].map Health.code = [0, 1, 2, 3, 4]
  ∧ [Line.a, .b].map lineCode = [0, 1]
  ∧ [LinkState.down, .up].map LinkState.code = [0, 1]
  ∧ [ReceiverState.off, .search, .locked].map ReceiverState.code = [0, 1, 2]
  ∧ [QueueName.urgent, .normal .fwd, .normal (.loc .t0), .normal (.loc .t1), .normal (.loc .t2), .normal (.loc .t3),
      .normal .own].map QueueName.code = [0, 1, 2, 3, 4, 5, 6]
  ∧ [NormalQueue.fwd, .loc .t0, .loc .t1, .loc .t2, .loc .t3, .own].map NormalQueue.code = [0, 1, 2, 3, 4, 5]
  ∧ [RingState.unknown, .closed, .half, .opened].map RingState.code = [0, 1, 2, 3]
  ∧ [Policy.hold, .safe].map Policy.code = [0, 1]

end Statements
end

