-- ==== Sys2Proof/Laws/Collections.lean ====
section
/-! SUPPORT. Laws of the fixed collections: what reading one item gives after one item is written. -/

namespace Sys2Proof

@[simp] theorem Line.other_other (l : Line) : l.other.other = l := by cases l <;> rfl

@[simp] theorem Line.other_ne (l : Line) : l.other ≠ l := by cases l <;> decide

@[simp] theorem Line.ne_other (l : Line) : l ≠ l.other := by cases l <;> decide

/-- A line that is not X is the other line of X. -/
theorem Line.eq_other_of_ne {l x : Line} (h : l ≠ x) : l = x.other := by
  cases l <;> cases x <;> simp_all [Line.other]

@[simp] theorem Pair.get_set_self {α : Type} (p : Pair α) (l : Line) (x : α) : (p.set l x).get l = x := by
  cases l <;> rfl

@[simp] theorem Pair.get_set_other {α : Type} (p : Pair α) (l : Line) (x : α) :
    (p.set l x).get l.other = p.get l.other := by cases l <;> rfl

@[simp] theorem Pair.get_other_set {α : Type} (p : Pair α) (l : Line) (x : α) :
    (p.set l.other x).get l = p.get l := by cases l <;> rfl

/-- The pair read after one item is written. -/
theorem Pair.get_set {α : Type} (p : Pair α) (l k : Line) (x : α) :
    (p.set l x).get k = if k = l then x else p.get k := by cases l <;> cases k <;> rfl

@[simp] theorem Pair.set_get {α : Type} (p : Pair α) (l : Line) : p.set l (p.get l) = p := by cases l <;> rfl

@[simp] theorem Pair.set_set {α : Type} (p : Pair α) (l : Line) (x y : α) : (p.set l x).set l y = p.set l y := by
  cases l <;> rfl

@[simp] theorem Pair.get_map {α β : Type} (f : α → β) (p : Pair α) (l : Line) : (p.map f).get l = f (p.get l) := by
  cases l <;> rfl

/-- Pairs with the same items are equal. -/
theorem Pair.ext_get {α : Type} {p q : Pair α} (h : ∀ l, p.get l = q.get l) : p = q := by
  have ha := h .a
  have hb := h .b
  cases p; cases q; simp_all [Pair.get]

@[simp] theorem Quad.get_set_self {α : Type} (q : Quad α) (t : Trib) (x : α) : (q.set t x).get t = x := by
  cases t <;> rfl

/-- The collection read after one item is written. -/
theorem Quad.get_set {α : Type} (q : Quad α) (t u : Trib) (x : α) :
    (q.set t x).get u = if u = t then x else q.get u := by cases t <;> cases u <;> rfl

/-- Another item is left as it was. -/
theorem Quad.get_set_ne {α : Type} (q : Quad α) {t u : Trib} (x : α) (h : u ≠ t) : (q.set t x).get u = q.get u := by
  rw [Quad.get_set, if_neg h]

@[simp] theorem Quad.set_set {α : Type} (q : Quad α) (t : Trib) (x y : α) : (q.set t x).set t y = q.set t y := by
  cases t <;> rfl

@[simp] theorem Quad.set_get {α : Type} (q : Quad α) (t : Trib) : q.set t (q.get t) = q := by cases t <;> rfl

@[simp] theorem Quad.get_ofFn {α : Type} (f : Trib → α) (t : Trib) : (Quad.ofFn f).get t = f t := by cases t <;> rfl

/-- Collections with the same items are equal. -/
theorem Quad.ext_get {α : Type} {p q : Quad α} (h : ∀ t, p.get t = q.get t) : p = q := by
  have h0 := h .t0
  have h1 := h .t1
  have h2 := h .t2
  have h3 := h .t3
  cases p; cases q; simp_all [Quad.get]

@[simp] theorem Oct.get_ofFn {α : Type} (f : Fin 8 → α) (i : Fin 8) : (Oct.ofFn f).get i = f i := by
  fin_cases i <;> rfl

/-- The items of a collection are those its positions hold. -/
theorem Oct.mem_toList {α : Type} (o : Oct α) (x : α) : x ∈ o.toList ↔ ∃ i, o.get i = x := by
  constructor
  · intro h
    simp only [Oct.toList, List.mem_cons, List.not_mem_nil, or_false] at h
    rcases h with h | h | h | h | h | h | h | h
    · exact ⟨0, h.symm⟩
    · exact ⟨1, h.symm⟩
    · exact ⟨2, h.symm⟩
    · exact ⟨3, h.symm⟩
    · exact ⟨4, h.symm⟩
    · exact ⟨5, h.symm⟩
    · exact ⟨6, h.symm⟩
    · exact ⟨7, h.symm⟩
  · rintro ⟨i, rfl⟩
    fin_cases i <;> simp [Oct.toList, Oct.get]

/-- Bit i of the byte is item i (R10). -/
theorem Oct.getLsbD_bits (o : Oct Bool) (i : Fin 8) : o.bits.getLsbD i.val = o.get i := by
  obtain ⟨a, b, c, d, e, f, g, h⟩ := o
  revert a b c d e f g h
  revert i
  decide

namespace Machine

@[simp] theorem PerQueue.get_set_self {α : Type} (p : PerQueue α) (q : QueueName) (x : α) :
    (p.set q x).get q = x := by
  rcases q with _ | (_ | t | _) <;> (try cases t) <;> rfl

/-- The queues read after one is written. -/
theorem PerQueue.get_set {α : Type} (p : PerQueue α) (q r : QueueName) (x : α) :
    (p.set q x).get r = if r = q then x else p.get r := by
  rcases q with _ | (_ | t | _) <;> rcases r with _ | (_ | u | _) <;> (try cases t) <;> (try cases u) <;>
    simp [PerQueue.get, PerQueue.set, Quad.get, Quad.set]

/-- Another queue is left as it was. -/
theorem PerQueue.get_set_ne {α : Type} (p : PerQueue α) {q r : QueueName} (x : α) (h : r ≠ q) :
    (p.set q x).get r = p.get r := by rw [PerQueue.get_set, if_neg h]

@[simp] theorem noFrames_get (q : QueueName) : noFrames.get q = [] := by
  rcases q with _ | (_ | t | _) <;> (try cases t) <;> rfl

/-- Every item of the list of queues is one of the queues. -/
theorem PerQueue.mem_toList {α : Type} (p : PerQueue α) (x : α) : x ∈ p.toList ↔ ∃ q, p.get q = x := by
  constructor
  · intro h
    simp only [PerQueue.toList, List.mem_cons, List.not_mem_nil, or_false] at h
    rcases h with h | h | h | h | h | h | h
    · exact ⟨.urgent, h.symm⟩
    · exact ⟨.normal .fwd, h.symm⟩
    · exact ⟨.normal (.loc .t0), h.symm⟩
    · exact ⟨.normal (.loc .t1), h.symm⟩
    · exact ⟨.normal (.loc .t2), h.symm⟩
    · exact ⟨.normal (.loc .t3), h.symm⟩
    · exact ⟨.normal .own, h.symm⟩
  · rintro ⟨q, rfl⟩
    rcases q with _ | (_ | t | _) <;> (try cases t) <;> simp [PerQueue.toList, PerQueue.get, Quad.get]

/-- The queues are all empty when each of them is. -/
theorem PerQueue.eq_noFrames {p : PerQueue (List RingFrame)} (h : ∀ q, p.get q = []) : p = noFrames := by
  obtain ⟨u, f, ⟨a, b, c, d⟩, o⟩ := p
  have h0 := h .urgent
  have h1 := h (.normal .fwd)
  have h2 := h (.normal (.loc .t0))
  have h3 := h (.normal (.loc .t1))
  have h4 := h (.normal (.loc .t2))
  have h5 := h (.normal (.loc .t3))
  have h6 := h (.normal .own)
  simp only [PerQueue.get, Quad.get] at h0 h1 h2 h3 h4 h5 h6
  subst h0 h1 h2 h3 h4 h5 h6
  rfl

end Machine

end Sys2Proof
end

