-- ==== Sys2Proof/Laws/State.lean ====
section
/-! SUPPORT. One lemma for each field and each update of State, true by rfl or by the update's cases: what the update
leaves as it was, and what it writes. -/

namespace Sys2Proof.Machine

/-! ### changePort -/

@[simp] theorem State.changePort_pending (t : Trib) (f : Port → Port) (s : State) :
    (s.changePort t f).pending = s.pending := rfl

@[simp] theorem State.changePort_inPins (t : Trib) (f : Port → Port) (s : State) :
    (s.changePort t f).inPins = s.inPins := rfl

@[simp] theorem State.changePort_freeCount (t : Trib) (f : Port → Port) (s : State) :
    (s.changePort t f).freeCount = s.freeCount := rfl

@[simp] theorem State.changePort_ownBay (t : Trib) (f : Port → Port) (s : State) :
    (s.changePort t f).ownBay = s.ownBay := rfl

@[simp] theorem State.changePort_timeBase (t : Trib) (f : Port → Port) (s : State) :
    (s.changePort t f).timeBase = s.timeBase := rfl

@[simp] theorem State.changePort_profile (t : Trib) (f : Port → Port) (s : State) :
    (s.changePort t f).profile = s.profile := rfl

@[simp] theorem State.changePort_pointer (t : Trib) (f : Port → Port) (s : State) :
    (s.changePort t f).pointer = s.pointer := rfl

@[simp] theorem State.changePort_table (t : Trib) (f : Port → Port) (s : State) :
    (s.changePort t f).table = s.table := rfl

@[simp] theorem State.changePort_receivers (t : Trib) (f : Port → Port) (s : State) :
    (s.changePort t f).receivers = s.receivers := rfl

@[simp] theorem State.changePort_egresses (t : Trib) (f : Port → Port) (s : State) :
    (s.changePort t f).egresses = s.egresses := rfl

@[simp] theorem State.changePort_ring (t : Trib) (f : Port → Port) (s : State) :
    (s.changePort t f).ring = s.ring := rfl

@[simp] theorem State.changePort_mirror (t : Trib) (f : Port → Port) (s : State) :
    (s.changePort t f).mirror = s.mirror := rfl

/-! ### changePorts -/

@[simp] theorem State.changePorts_pending (f : Trib → Port → Port) (s : State) :
    (s.changePorts f).pending = s.pending := rfl

@[simp] theorem State.changePorts_inPins (f : Trib → Port → Port) (s : State) :
    (s.changePorts f).inPins = s.inPins := rfl

@[simp] theorem State.changePorts_freeCount (f : Trib → Port → Port) (s : State) :
    (s.changePorts f).freeCount = s.freeCount := rfl

@[simp] theorem State.changePorts_ownBay (f : Trib → Port → Port) (s : State) :
    (s.changePorts f).ownBay = s.ownBay := rfl

@[simp] theorem State.changePorts_timeBase (f : Trib → Port → Port) (s : State) :
    (s.changePorts f).timeBase = s.timeBase := rfl

@[simp] theorem State.changePorts_profile (f : Trib → Port → Port) (s : State) :
    (s.changePorts f).profile = s.profile := rfl

@[simp] theorem State.changePorts_pointer (f : Trib → Port → Port) (s : State) :
    (s.changePorts f).pointer = s.pointer := rfl

@[simp] theorem State.changePorts_table (f : Trib → Port → Port) (s : State) :
    (s.changePorts f).table = s.table := rfl

@[simp] theorem State.changePorts_receivers (f : Trib → Port → Port) (s : State) :
    (s.changePorts f).receivers = s.receivers := rfl

@[simp] theorem State.changePorts_egresses (f : Trib → Port → Port) (s : State) :
    (s.changePorts f).egresses = s.egresses := rfl

@[simp] theorem State.changePorts_ring (f : Trib → Port → Port) (s : State) :
    (s.changePorts f).ring = s.ring := rfl

@[simp] theorem State.changePorts_mirror (f : Trib → Port → Port) (s : State) :
    (s.changePorts f).mirror = s.mirror := rfl

/-! ### changeReceiver -/

@[simp] theorem State.changeReceiver_pending (l : Line) (f : Receiver → Receiver) (s : State) :
    (s.changeReceiver l f).pending = s.pending := rfl

@[simp] theorem State.changeReceiver_inPins (l : Line) (f : Receiver → Receiver) (s : State) :
    (s.changeReceiver l f).inPins = s.inPins := rfl

@[simp] theorem State.changeReceiver_freeCount (l : Line) (f : Receiver → Receiver) (s : State) :
    (s.changeReceiver l f).freeCount = s.freeCount := rfl

@[simp] theorem State.changeReceiver_ownBay (l : Line) (f : Receiver → Receiver) (s : State) :
    (s.changeReceiver l f).ownBay = s.ownBay := rfl

@[simp] theorem State.changeReceiver_timeBase (l : Line) (f : Receiver → Receiver) (s : State) :
    (s.changeReceiver l f).timeBase = s.timeBase := rfl

@[simp] theorem State.changeReceiver_profile (l : Line) (f : Receiver → Receiver) (s : State) :
    (s.changeReceiver l f).profile = s.profile := rfl

@[simp] theorem State.changeReceiver_pointer (l : Line) (f : Receiver → Receiver) (s : State) :
    (s.changeReceiver l f).pointer = s.pointer := rfl

@[simp] theorem State.changeReceiver_table (l : Line) (f : Receiver → Receiver) (s : State) :
    (s.changeReceiver l f).table = s.table := rfl

@[simp] theorem State.changeReceiver_ports (l : Line) (f : Receiver → Receiver) (s : State) :
    (s.changeReceiver l f).ports = s.ports := rfl

@[simp] theorem State.changeReceiver_egresses (l : Line) (f : Receiver → Receiver) (s : State) :
    (s.changeReceiver l f).egresses = s.egresses := rfl

@[simp] theorem State.changeReceiver_ring (l : Line) (f : Receiver → Receiver) (s : State) :
    (s.changeReceiver l f).ring = s.ring := rfl

@[simp] theorem State.changeReceiver_mirror (l : Line) (f : Receiver → Receiver) (s : State) :
    (s.changeReceiver l f).mirror = s.mirror := rfl

/-! ### changeEgress -/

@[simp] theorem State.changeEgress_pending (l : Line) (f : Egress → Egress) (s : State) :
    (s.changeEgress l f).pending = s.pending := rfl

@[simp] theorem State.changeEgress_inPins (l : Line) (f : Egress → Egress) (s : State) :
    (s.changeEgress l f).inPins = s.inPins := rfl

@[simp] theorem State.changeEgress_freeCount (l : Line) (f : Egress → Egress) (s : State) :
    (s.changeEgress l f).freeCount = s.freeCount := rfl

@[simp] theorem State.changeEgress_ownBay (l : Line) (f : Egress → Egress) (s : State) :
    (s.changeEgress l f).ownBay = s.ownBay := rfl

@[simp] theorem State.changeEgress_timeBase (l : Line) (f : Egress → Egress) (s : State) :
    (s.changeEgress l f).timeBase = s.timeBase := rfl

@[simp] theorem State.changeEgress_profile (l : Line) (f : Egress → Egress) (s : State) :
    (s.changeEgress l f).profile = s.profile := rfl

@[simp] theorem State.changeEgress_pointer (l : Line) (f : Egress → Egress) (s : State) :
    (s.changeEgress l f).pointer = s.pointer := rfl

@[simp] theorem State.changeEgress_table (l : Line) (f : Egress → Egress) (s : State) :
    (s.changeEgress l f).table = s.table := rfl

@[simp] theorem State.changeEgress_ports (l : Line) (f : Egress → Egress) (s : State) :
    (s.changeEgress l f).ports = s.ports := rfl

@[simp] theorem State.changeEgress_receivers (l : Line) (f : Egress → Egress) (s : State) :
    (s.changeEgress l f).receivers = s.receivers := rfl

@[simp] theorem State.changeEgress_ring (l : Line) (f : Egress → Egress) (s : State) :
    (s.changeEgress l f).ring = s.ring := rfl

@[simp] theorem State.changeEgress_mirror (l : Line) (f : Egress → Egress) (s : State) :
    (s.changeEgress l f).mirror = s.mirror := rfl

/-! ### changeRing -/

@[simp] theorem State.changeRing_pending (f : RingUnit → RingUnit) (s : State) :
    (s.changeRing f).pending = s.pending := rfl

@[simp] theorem State.changeRing_inPins (f : RingUnit → RingUnit) (s : State) :
    (s.changeRing f).inPins = s.inPins := rfl

@[simp] theorem State.changeRing_freeCount (f : RingUnit → RingUnit) (s : State) :
    (s.changeRing f).freeCount = s.freeCount := rfl

@[simp] theorem State.changeRing_ownBay (f : RingUnit → RingUnit) (s : State) :
    (s.changeRing f).ownBay = s.ownBay := rfl

@[simp] theorem State.changeRing_timeBase (f : RingUnit → RingUnit) (s : State) :
    (s.changeRing f).timeBase = s.timeBase := rfl

@[simp] theorem State.changeRing_profile (f : RingUnit → RingUnit) (s : State) :
    (s.changeRing f).profile = s.profile := rfl

@[simp] theorem State.changeRing_pointer (f : RingUnit → RingUnit) (s : State) :
    (s.changeRing f).pointer = s.pointer := rfl

@[simp] theorem State.changeRing_table (f : RingUnit → RingUnit) (s : State) :
    (s.changeRing f).table = s.table := rfl

@[simp] theorem State.changeRing_ports (f : RingUnit → RingUnit) (s : State) :
    (s.changeRing f).ports = s.ports := rfl

@[simp] theorem State.changeRing_receivers (f : RingUnit → RingUnit) (s : State) :
    (s.changeRing f).receivers = s.receivers := rfl

@[simp] theorem State.changeRing_egresses (f : RingUnit → RingUnit) (s : State) :
    (s.changeRing f).egresses = s.egresses := rfl

@[simp] theorem State.changeRing_mirror (f : RingUnit → RingUnit) (s : State) :
    (s.changeRing f).mirror = s.mirror := rfl

/-! ### countRing -/

@[simp] theorem State.countRing_pending (f : RingCounters → RingCounters) (s : State) :
    (s.countRing f).pending = s.pending := rfl

@[simp] theorem State.countRing_inPins (f : RingCounters → RingCounters) (s : State) :
    (s.countRing f).inPins = s.inPins := rfl

@[simp] theorem State.countRing_freeCount (f : RingCounters → RingCounters) (s : State) :
    (s.countRing f).freeCount = s.freeCount := rfl

@[simp] theorem State.countRing_ownBay (f : RingCounters → RingCounters) (s : State) :
    (s.countRing f).ownBay = s.ownBay := rfl

@[simp] theorem State.countRing_timeBase (f : RingCounters → RingCounters) (s : State) :
    (s.countRing f).timeBase = s.timeBase := rfl

@[simp] theorem State.countRing_profile (f : RingCounters → RingCounters) (s : State) :
    (s.countRing f).profile = s.profile := rfl

@[simp] theorem State.countRing_pointer (f : RingCounters → RingCounters) (s : State) :
    (s.countRing f).pointer = s.pointer := rfl

@[simp] theorem State.countRing_table (f : RingCounters → RingCounters) (s : State) :
    (s.countRing f).table = s.table := rfl

@[simp] theorem State.countRing_ports (f : RingCounters → RingCounters) (s : State) :
    (s.countRing f).ports = s.ports := rfl

@[simp] theorem State.countRing_receivers (f : RingCounters → RingCounters) (s : State) :
    (s.countRing f).receivers = s.receivers := rfl

@[simp] theorem State.countRing_egresses (f : RingCounters → RingCounters) (s : State) :
    (s.countRing f).egresses = s.egresses := rfl

@[simp] theorem State.countRing_mirror (f : RingCounters → RingCounters) (s : State) :
    (s.countRing f).mirror = s.mirror := rfl

/-! ### raiseAll -/

@[simp] theorem State.raiseAll_pending (k : ReportKind) (s : State) :
    (s.raiseAll k).pending = s.pending := rfl

@[simp] theorem State.raiseAll_inPins (k : ReportKind) (s : State) :
    (s.raiseAll k).inPins = s.inPins := rfl

@[simp] theorem State.raiseAll_freeCount (k : ReportKind) (s : State) :
    (s.raiseAll k).freeCount = s.freeCount := rfl

@[simp] theorem State.raiseAll_ownBay (k : ReportKind) (s : State) :
    (s.raiseAll k).ownBay = s.ownBay := rfl

@[simp] theorem State.raiseAll_timeBase (k : ReportKind) (s : State) :
    (s.raiseAll k).timeBase = s.timeBase := rfl

@[simp] theorem State.raiseAll_profile (k : ReportKind) (s : State) :
    (s.raiseAll k).profile = s.profile := rfl

@[simp] theorem State.raiseAll_pointer (k : ReportKind) (s : State) :
    (s.raiseAll k).pointer = s.pointer := rfl

@[simp] theorem State.raiseAll_table (k : ReportKind) (s : State) :
    (s.raiseAll k).table = s.table := rfl

@[simp] theorem State.raiseAll_receivers (k : ReportKind) (s : State) :
    (s.raiseAll k).receivers = s.receivers := rfl

@[simp] theorem State.raiseAll_egresses (k : ReportKind) (s : State) :
    (s.raiseAll k).egresses = s.egresses := rfl

@[simp] theorem State.raiseAll_ring (k : ReportKind) (s : State) :
    (s.raiseAll k).ring = s.ring := rfl

@[simp] theorem State.raiseAll_mirror (k : ReportKind) (s : State) :
    (s.raiseAll k).mirror = s.mirror := rfl

/-! ### raiseMembers -/

@[simp] theorem State.raiseMembers_pending (k : ReportKind) (m : Members) (s : State) :
    (s.raiseMembers k m).pending = s.pending := rfl

@[simp] theorem State.raiseMembers_inPins (k : ReportKind) (m : Members) (s : State) :
    (s.raiseMembers k m).inPins = s.inPins := rfl

@[simp] theorem State.raiseMembers_freeCount (k : ReportKind) (m : Members) (s : State) :
    (s.raiseMembers k m).freeCount = s.freeCount := rfl

@[simp] theorem State.raiseMembers_ownBay (k : ReportKind) (m : Members) (s : State) :
    (s.raiseMembers k m).ownBay = s.ownBay := rfl

@[simp] theorem State.raiseMembers_timeBase (k : ReportKind) (m : Members) (s : State) :
    (s.raiseMembers k m).timeBase = s.timeBase := rfl

@[simp] theorem State.raiseMembers_profile (k : ReportKind) (m : Members) (s : State) :
    (s.raiseMembers k m).profile = s.profile := rfl

@[simp] theorem State.raiseMembers_pointer (k : ReportKind) (m : Members) (s : State) :
    (s.raiseMembers k m).pointer = s.pointer := rfl

@[simp] theorem State.raiseMembers_table (k : ReportKind) (m : Members) (s : State) :
    (s.raiseMembers k m).table = s.table := rfl

@[simp] theorem State.raiseMembers_receivers (k : ReportKind) (m : Members) (s : State) :
    (s.raiseMembers k m).receivers = s.receivers := rfl

@[simp] theorem State.raiseMembers_egresses (k : ReportKind) (m : Members) (s : State) :
    (s.raiseMembers k m).egresses = s.egresses := rfl

@[simp] theorem State.raiseMembers_ring (k : ReportKind) (m : Members) (s : State) :
    (s.raiseMembers k m).ring = s.ring := rfl

@[simp] theorem State.raiseMembers_mirror (k : ReportKind) (m : Members) (s : State) :
    (s.raiseMembers k m).mirror = s.mirror := rfl

/-! ### raiseProfile -/

@[simp] theorem State.raiseProfile_pending (t : Trib) (s : State) :
    (s.raiseProfile t).pending = s.pending := rfl

@[simp] theorem State.raiseProfile_inPins (t : Trib) (s : State) :
    (s.raiseProfile t).inPins = s.inPins := rfl

@[simp] theorem State.raiseProfile_freeCount (t : Trib) (s : State) :
    (s.raiseProfile t).freeCount = s.freeCount := rfl

@[simp] theorem State.raiseProfile_ownBay (t : Trib) (s : State) :
    (s.raiseProfile t).ownBay = s.ownBay := rfl

@[simp] theorem State.raiseProfile_timeBase (t : Trib) (s : State) :
    (s.raiseProfile t).timeBase = s.timeBase := rfl

@[simp] theorem State.raiseProfile_profile (t : Trib) (s : State) :
    (s.raiseProfile t).profile = s.profile := rfl

@[simp] theorem State.raiseProfile_pointer (t : Trib) (s : State) :
    (s.raiseProfile t).pointer = s.pointer := rfl

@[simp] theorem State.raiseProfile_table (t : Trib) (s : State) :
    (s.raiseProfile t).table = s.table := rfl

@[simp] theorem State.raiseProfile_receivers (t : Trib) (s : State) :
    (s.raiseProfile t).receivers = s.receivers := rfl

@[simp] theorem State.raiseProfile_egresses (t : Trib) (s : State) :
    (s.raiseProfile t).egresses = s.egresses := rfl

@[simp] theorem State.raiseProfile_ring (t : Trib) (s : State) :
    (s.raiseProfile t).ring = s.ring := rfl

@[simp] theorem State.raiseProfile_mirror (t : Trib) (s : State) :
    (s.raiseProfile t).mirror = s.mirror := rfl

/-! ### offerDataTo -/

@[simp] theorem State.offerDataTo_pending (m : Members) (urgent : Bool) (r : DeliveryRecord) (s : State) :
    (s.offerDataTo m urgent r).pending = s.pending := rfl

@[simp] theorem State.offerDataTo_inPins (m : Members) (urgent : Bool) (r : DeliveryRecord) (s : State) :
    (s.offerDataTo m urgent r).inPins = s.inPins := rfl

@[simp] theorem State.offerDataTo_freeCount (m : Members) (urgent : Bool) (r : DeliveryRecord) (s : State) :
    (s.offerDataTo m urgent r).freeCount = s.freeCount := rfl

@[simp] theorem State.offerDataTo_ownBay (m : Members) (urgent : Bool) (r : DeliveryRecord) (s : State) :
    (s.offerDataTo m urgent r).ownBay = s.ownBay := rfl

@[simp] theorem State.offerDataTo_timeBase (m : Members) (urgent : Bool) (r : DeliveryRecord) (s : State) :
    (s.offerDataTo m urgent r).timeBase = s.timeBase := rfl

@[simp] theorem State.offerDataTo_profile (m : Members) (urgent : Bool) (r : DeliveryRecord) (s : State) :
    (s.offerDataTo m urgent r).profile = s.profile := rfl

@[simp] theorem State.offerDataTo_pointer (m : Members) (urgent : Bool) (r : DeliveryRecord) (s : State) :
    (s.offerDataTo m urgent r).pointer = s.pointer := rfl

@[simp] theorem State.offerDataTo_table (m : Members) (urgent : Bool) (r : DeliveryRecord) (s : State) :
    (s.offerDataTo m urgent r).table = s.table := rfl

@[simp] theorem State.offerDataTo_receivers (m : Members) (urgent : Bool) (r : DeliveryRecord) (s : State) :
    (s.offerDataTo m urgent r).receivers = s.receivers := rfl

@[simp] theorem State.offerDataTo_egresses (m : Members) (urgent : Bool) (r : DeliveryRecord) (s : State) :
    (s.offerDataTo m urgent r).egresses = s.egresses := rfl

@[simp] theorem State.offerDataTo_ring (m : Members) (urgent : Bool) (r : DeliveryRecord) (s : State) :
    (s.offerDataTo m urgent r).ring = s.ring := rfl

@[simp] theorem State.offerDataTo_mirror (m : Members) (urgent : Bool) (r : DeliveryRecord) (s : State) :
    (s.offerDataTo m urgent r).mirror = s.mirror := rfl

/-! ### offerNoticeTo -/

@[simp] theorem State.offerNoticeTo_pending (m : Members) (r : DeliveryRecord) (s : State) :
    (s.offerNoticeTo m r).pending = s.pending := rfl

@[simp] theorem State.offerNoticeTo_inPins (m : Members) (r : DeliveryRecord) (s : State) :
    (s.offerNoticeTo m r).inPins = s.inPins := rfl

@[simp] theorem State.offerNoticeTo_freeCount (m : Members) (r : DeliveryRecord) (s : State) :
    (s.offerNoticeTo m r).freeCount = s.freeCount := rfl

@[simp] theorem State.offerNoticeTo_ownBay (m : Members) (r : DeliveryRecord) (s : State) :
    (s.offerNoticeTo m r).ownBay = s.ownBay := rfl

@[simp] theorem State.offerNoticeTo_timeBase (m : Members) (r : DeliveryRecord) (s : State) :
    (s.offerNoticeTo m r).timeBase = s.timeBase := rfl

@[simp] theorem State.offerNoticeTo_profile (m : Members) (r : DeliveryRecord) (s : State) :
    (s.offerNoticeTo m r).profile = s.profile := rfl

@[simp] theorem State.offerNoticeTo_pointer (m : Members) (r : DeliveryRecord) (s : State) :
    (s.offerNoticeTo m r).pointer = s.pointer := rfl

@[simp] theorem State.offerNoticeTo_table (m : Members) (r : DeliveryRecord) (s : State) :
    (s.offerNoticeTo m r).table = s.table := rfl

@[simp] theorem State.offerNoticeTo_receivers (m : Members) (r : DeliveryRecord) (s : State) :
    (s.offerNoticeTo m r).receivers = s.receivers := rfl

@[simp] theorem State.offerNoticeTo_egresses (m : Members) (r : DeliveryRecord) (s : State) :
    (s.offerNoticeTo m r).egresses = s.egresses := rfl

@[simp] theorem State.offerNoticeTo_ring (m : Members) (r : DeliveryRecord) (s : State) :
    (s.offerNoticeTo m r).ring = s.ring := rfl

@[simp] theorem State.offerNoticeTo_mirror (m : Members) (r : DeliveryRecord) (s : State) :
    (s.offerNoticeTo m r).mirror = s.mirror := rfl

/-! ### offerLine -/

@[simp] theorem State.offerLine_pending (l : Line) (q : QueueName) (f : RingFrame) (s : State) :
    (s.offerLine l q f).pending = s.pending := rfl

@[simp] theorem State.offerLine_inPins (l : Line) (q : QueueName) (f : RingFrame) (s : State) :
    (s.offerLine l q f).inPins = s.inPins := rfl

@[simp] theorem State.offerLine_freeCount (l : Line) (q : QueueName) (f : RingFrame) (s : State) :
    (s.offerLine l q f).freeCount = s.freeCount := rfl

@[simp] theorem State.offerLine_ownBay (l : Line) (q : QueueName) (f : RingFrame) (s : State) :
    (s.offerLine l q f).ownBay = s.ownBay := rfl

@[simp] theorem State.offerLine_timeBase (l : Line) (q : QueueName) (f : RingFrame) (s : State) :
    (s.offerLine l q f).timeBase = s.timeBase := rfl

@[simp] theorem State.offerLine_profile (l : Line) (q : QueueName) (f : RingFrame) (s : State) :
    (s.offerLine l q f).profile = s.profile := rfl

@[simp] theorem State.offerLine_pointer (l : Line) (q : QueueName) (f : RingFrame) (s : State) :
    (s.offerLine l q f).pointer = s.pointer := rfl

@[simp] theorem State.offerLine_table (l : Line) (q : QueueName) (f : RingFrame) (s : State) :
    (s.offerLine l q f).table = s.table := rfl

@[simp] theorem State.offerLine_ports (l : Line) (q : QueueName) (f : RingFrame) (s : State) :
    (s.offerLine l q f).ports = s.ports := rfl

@[simp] theorem State.offerLine_receivers (l : Line) (q : QueueName) (f : RingFrame) (s : State) :
    (s.offerLine l q f).receivers = s.receivers := rfl

@[simp] theorem State.offerLine_ring (l : Line) (q : QueueName) (f : RingFrame) (s : State) :
    (s.offerLine l q f).ring = s.ring := rfl

@[simp] theorem State.offerLine_mirror (l : Line) (q : QueueName) (f : RingFrame) (s : State) :
    (s.offerLine l q f).mirror = s.mirror := rfl

/-! ### offerBoth -/

@[simp] theorem State.offerBoth_pending (q : QueueName) (f : RingFrame) (s : State) :
    (s.offerBoth q f).pending = s.pending := rfl

@[simp] theorem State.offerBoth_inPins (q : QueueName) (f : RingFrame) (s : State) :
    (s.offerBoth q f).inPins = s.inPins := rfl

@[simp] theorem State.offerBoth_freeCount (q : QueueName) (f : RingFrame) (s : State) :
    (s.offerBoth q f).freeCount = s.freeCount := rfl

@[simp] theorem State.offerBoth_ownBay (q : QueueName) (f : RingFrame) (s : State) :
    (s.offerBoth q f).ownBay = s.ownBay := rfl

@[simp] theorem State.offerBoth_timeBase (q : QueueName) (f : RingFrame) (s : State) :
    (s.offerBoth q f).timeBase = s.timeBase := rfl

@[simp] theorem State.offerBoth_profile (q : QueueName) (f : RingFrame) (s : State) :
    (s.offerBoth q f).profile = s.profile := rfl

@[simp] theorem State.offerBoth_pointer (q : QueueName) (f : RingFrame) (s : State) :
    (s.offerBoth q f).pointer = s.pointer := rfl

@[simp] theorem State.offerBoth_table (q : QueueName) (f : RingFrame) (s : State) :
    (s.offerBoth q f).table = s.table := rfl

@[simp] theorem State.offerBoth_ports (q : QueueName) (f : RingFrame) (s : State) :
    (s.offerBoth q f).ports = s.ports := rfl

@[simp] theorem State.offerBoth_receivers (q : QueueName) (f : RingFrame) (s : State) :
    (s.offerBoth q f).receivers = s.receivers := rfl

@[simp] theorem State.offerBoth_ring (q : QueueName) (f : RingFrame) (s : State) :
    (s.offerBoth q f).ring = s.ring := rfl

@[simp] theorem State.offerBoth_mirror (q : QueueName) (f : RingFrame) (s : State) :
    (s.offerBoth q f).mirror = s.mirror := rfl

/-! ### startSearch -/

@[simp] theorem State.startSearch_pending (l : Line) (level : Nat) (s : State) :
    (s.startSearch l level).pending = s.pending := rfl

@[simp] theorem State.startSearch_inPins (l : Line) (level : Nat) (s : State) :
    (s.startSearch l level).inPins = s.inPins := rfl

@[simp] theorem State.startSearch_freeCount (l : Line) (level : Nat) (s : State) :
    (s.startSearch l level).freeCount = s.freeCount := rfl

@[simp] theorem State.startSearch_ownBay (l : Line) (level : Nat) (s : State) :
    (s.startSearch l level).ownBay = s.ownBay := rfl

@[simp] theorem State.startSearch_timeBase (l : Line) (level : Nat) (s : State) :
    (s.startSearch l level).timeBase = s.timeBase := rfl

@[simp] theorem State.startSearch_profile (l : Line) (level : Nat) (s : State) :
    (s.startSearch l level).profile = s.profile := rfl

@[simp] theorem State.startSearch_pointer (l : Line) (level : Nat) (s : State) :
    (s.startSearch l level).pointer = s.pointer := rfl

@[simp] theorem State.startSearch_table (l : Line) (level : Nat) (s : State) :
    (s.startSearch l level).table = s.table := rfl

@[simp] theorem State.startSearch_ports (l : Line) (level : Nat) (s : State) :
    (s.startSearch l level).ports = s.ports := rfl

@[simp] theorem State.startSearch_egresses (l : Line) (level : Nat) (s : State) :
    (s.startSearch l level).egresses = s.egresses := rfl

@[simp] theorem State.startSearch_ring (l : Line) (level : Nat) (s : State) :
    (s.startSearch l level).ring = s.ring := rfl

@[simp] theorem State.startSearch_mirror (l : Line) (level : Nat) (s : State) :
    (s.startSearch l level).mirror = s.mirror := rfl

/-! ### departForSearch -/

@[simp] theorem State.departForSearch_pending (l : Line) (level : Nat) (s : State) :
    (s.departForSearch l level).pending = s.pending := rfl

@[simp] theorem State.departForSearch_inPins (l : Line) (level : Nat) (s : State) :
    (s.departForSearch l level).inPins = s.inPins := rfl

@[simp] theorem State.departForSearch_freeCount (l : Line) (level : Nat) (s : State) :
    (s.departForSearch l level).freeCount = s.freeCount := rfl

@[simp] theorem State.departForSearch_ownBay (l : Line) (level : Nat) (s : State) :
    (s.departForSearch l level).ownBay = s.ownBay := rfl

@[simp] theorem State.departForSearch_timeBase (l : Line) (level : Nat) (s : State) :
    (s.departForSearch l level).timeBase = s.timeBase := rfl

@[simp] theorem State.departForSearch_profile (l : Line) (level : Nat) (s : State) :
    (s.departForSearch l level).profile = s.profile := rfl

@[simp] theorem State.departForSearch_pointer (l : Line) (level : Nat) (s : State) :
    (s.departForSearch l level).pointer = s.pointer := rfl

@[simp] theorem State.departForSearch_table (l : Line) (level : Nat) (s : State) :
    (s.departForSearch l level).table = s.table := rfl

@[simp] theorem State.departForSearch_ring (l : Line) (level : Nat) (s : State) :
    (s.departForSearch l level).ring = s.ring := rfl

@[simp] theorem State.departForSearch_mirror (l : Line) (level : Nat) (s : State) :
    (s.departForSearch l level).mirror = s.mirror := rfl

/-! ### turnOff -/

@[simp] theorem State.turnOff_pending (l : Line) (s : State) :
    (s.turnOff l).pending = s.pending := by
  unfold State.turnOff
  split <;> rfl

@[simp] theorem State.turnOff_inPins (l : Line) (s : State) :
    (s.turnOff l).inPins = s.inPins := by
  unfold State.turnOff
  split <;> rfl

@[simp] theorem State.turnOff_freeCount (l : Line) (s : State) :
    (s.turnOff l).freeCount = s.freeCount := by
  unfold State.turnOff
  split <;> rfl

@[simp] theorem State.turnOff_ownBay (l : Line) (s : State) :
    (s.turnOff l).ownBay = s.ownBay := by
  unfold State.turnOff
  split <;> rfl

@[simp] theorem State.turnOff_timeBase (l : Line) (s : State) :
    (s.turnOff l).timeBase = s.timeBase := by
  unfold State.turnOff
  split <;> rfl

@[simp] theorem State.turnOff_profile (l : Line) (s : State) :
    (s.turnOff l).profile = s.profile := by
  unfold State.turnOff
  split <;> rfl

@[simp] theorem State.turnOff_pointer (l : Line) (s : State) :
    (s.turnOff l).pointer = s.pointer := by
  unfold State.turnOff
  split <;> rfl

@[simp] theorem State.turnOff_table (l : Line) (s : State) :
    (s.turnOff l).table = s.table := by
  unfold State.turnOff
  split <;> rfl

@[simp] theorem State.turnOff_ring (l : Line) (s : State) :
    (s.turnOff l).ring = s.ring := by
  unfold State.turnOff
  split <;> rfl

@[simp] theorem State.turnOff_mirror (l : Line) (s : State) :
    (s.turnOff l).mirror = s.mirror := by
  unfold State.turnOff
  split <;> rfl

/-! ### lock -/

@[simp] theorem State.lock_pending (l : Line) (s : State) :
    (s.lock l).pending = s.pending := rfl

@[simp] theorem State.lock_inPins (l : Line) (s : State) :
    (s.lock l).inPins = s.inPins := rfl

@[simp] theorem State.lock_freeCount (l : Line) (s : State) :
    (s.lock l).freeCount = s.freeCount := rfl

@[simp] theorem State.lock_ownBay (l : Line) (s : State) :
    (s.lock l).ownBay = s.ownBay := rfl

@[simp] theorem State.lock_timeBase (l : Line) (s : State) :
    (s.lock l).timeBase = s.timeBase := rfl

@[simp] theorem State.lock_profile (l : Line) (s : State) :
    (s.lock l).profile = s.profile := rfl

@[simp] theorem State.lock_pointer (l : Line) (s : State) :
    (s.lock l).pointer = s.pointer := rfl

@[simp] theorem State.lock_table (l : Line) (s : State) :
    (s.lock l).table = s.table := rfl

@[simp] theorem State.lock_egresses (l : Line) (s : State) :
    (s.lock l).egresses = s.egresses := rfl

@[simp] theorem State.lock_ring (l : Line) (s : State) :
    (s.lock l).ring = s.ring := rfl

@[simp] theorem State.lock_mirror (l : Line) (s : State) :
    (s.lock l).mirror = s.mirror := rfl

/-! ### teardown -/

@[simp] theorem State.teardown_pending (t : Trib) (s : State) :
    (s.teardown t).pending = s.pending := rfl

@[simp] theorem State.teardown_inPins (t : Trib) (s : State) :
    (s.teardown t).inPins = s.inPins := rfl

@[simp] theorem State.teardown_freeCount (t : Trib) (s : State) :
    (s.teardown t).freeCount = s.freeCount := rfl

@[simp] theorem State.teardown_ownBay (t : Trib) (s : State) :
    (s.teardown t).ownBay = s.ownBay := rfl

@[simp] theorem State.teardown_timeBase (t : Trib) (s : State) :
    (s.teardown t).timeBase = s.timeBase := rfl

@[simp] theorem State.teardown_profile (t : Trib) (s : State) :
    (s.teardown t).profile = s.profile := rfl

@[simp] theorem State.teardown_pointer (t : Trib) (s : State) :
    (s.teardown t).pointer = s.pointer := rfl

@[simp] theorem State.teardown_receivers (t : Trib) (s : State) :
    (s.teardown t).receivers = s.receivers := rfl

@[simp] theorem State.teardown_egresses (t : Trib) (s : State) :
    (s.teardown t).egresses = s.egresses := rfl

@[simp] theorem State.teardown_ring (t : Trib) (s : State) :
    (s.teardown t).ring = s.ring := rfl

@[simp] theorem State.teardown_mirror (t : Trib) (s : State) :
    (s.teardown t).mirror = s.mirror := rfl

/-! ### bayClash -/

@[simp] theorem State.bayClash_pending  (s : State) :
    (s.bayClash ).pending = s.pending := rfl

@[simp] theorem State.bayClash_inPins  (s : State) :
    (s.bayClash ).inPins = s.inPins := rfl

@[simp] theorem State.bayClash_freeCount  (s : State) :
    (s.bayClash ).freeCount = s.freeCount := rfl

@[simp] theorem State.bayClash_ownBay  (s : State) :
    (s.bayClash ).ownBay = s.ownBay := rfl

@[simp] theorem State.bayClash_timeBase  (s : State) :
    (s.bayClash ).timeBase = s.timeBase := rfl

@[simp] theorem State.bayClash_profile  (s : State) :
    (s.bayClash ).profile = s.profile := rfl

@[simp] theorem State.bayClash_pointer  (s : State) :
    (s.bayClash ).pointer = s.pointer := rfl

@[simp] theorem State.bayClash_table  (s : State) :
    (s.bayClash ).table = s.table := rfl

@[simp] theorem State.bayClash_receivers  (s : State) :
    (s.bayClash ).receivers = s.receivers := rfl

@[simp] theorem State.bayClash_egresses  (s : State) :
    (s.bayClash ).egresses = s.egresses := rfl

@[simp] theorem State.bayClash_mirror  (s : State) :
    (s.bayClash ).mirror = s.mirror := rfl

/-! ### tick -/

@[simp] theorem State.tick_pending  (s : State) :
    (s.tick ).pending = s.pending := rfl

@[simp] theorem State.tick_inPins  (s : State) :
    (s.tick ).inPins = s.inPins := rfl

@[simp] theorem State.tick_freeCount  (s : State) :
    (s.tick ).freeCount = s.freeCount := rfl

@[simp] theorem State.tick_ownBay  (s : State) :
    (s.tick ).ownBay = s.ownBay := rfl

@[simp] theorem State.tick_profile  (s : State) :
    (s.tick ).profile = s.profile := rfl

@[simp] theorem State.tick_pointer  (s : State) :
    (s.tick ).pointer = s.pointer := rfl

@[simp] theorem State.tick_table  (s : State) :
    (s.tick ).table = s.table := rfl

@[simp] theorem State.tick_ports  (s : State) :
    (s.tick ).ports = s.ports := rfl

@[simp] theorem State.tick_receivers  (s : State) :
    (s.tick ).receivers = s.receivers := rfl

@[simp] theorem State.tick_egresses  (s : State) :
    (s.tick ).egresses = s.egresses := rfl

@[simp] theorem State.tick_ring  (s : State) :
    (s.tick ).ring = s.ring := rfl

@[simp] theorem State.tick_mirror  (s : State) :
    (s.tick ).mirror = s.mirror := rfl

/-! ### advanceTo -/

@[simp] theorem State.advanceTo_pending (due : Time) (s : State) :
    (s.advanceTo due).pending = s.pending := by
  unfold State.advanceTo
  split <;> rfl

@[simp] theorem State.advanceTo_inPins (due : Time) (s : State) :
    (s.advanceTo due).inPins = s.inPins := by
  unfold State.advanceTo
  split <;> rfl

@[simp] theorem State.advanceTo_freeCount (due : Time) (s : State) :
    (s.advanceTo due).freeCount = s.freeCount := by
  unfold State.advanceTo
  split <;> rfl

@[simp] theorem State.advanceTo_ownBay (due : Time) (s : State) :
    (s.advanceTo due).ownBay = s.ownBay := by
  unfold State.advanceTo
  split <;> rfl

@[simp] theorem State.advanceTo_profile (due : Time) (s : State) :
    (s.advanceTo due).profile = s.profile := by
  unfold State.advanceTo
  split <;> rfl

@[simp] theorem State.advanceTo_pointer (due : Time) (s : State) :
    (s.advanceTo due).pointer = s.pointer := by
  unfold State.advanceTo
  split <;> rfl

@[simp] theorem State.advanceTo_table (due : Time) (s : State) :
    (s.advanceTo due).table = s.table := by
  unfold State.advanceTo
  split <;> rfl

@[simp] theorem State.advanceTo_ports (due : Time) (s : State) :
    (s.advanceTo due).ports = s.ports := by
  unfold State.advanceTo
  split <;> rfl

@[simp] theorem State.advanceTo_receivers (due : Time) (s : State) :
    (s.advanceTo due).receivers = s.receivers := by
  unfold State.advanceTo
  split <;> rfl

@[simp] theorem State.advanceTo_egresses (due : Time) (s : State) :
    (s.advanceTo due).egresses = s.egresses := by
  unfold State.advanceTo
  split <;> rfl

@[simp] theorem State.advanceTo_ring (due : Time) (s : State) :
    (s.advanceTo due).ring = s.ring := by
  unfold State.advanceTo
  split <;> rfl

@[simp] theorem State.advanceTo_mirror (due : Time) (s : State) :
    (s.advanceTo due).mirror = s.mirror := by
  unfold State.advanceTo
  split <;> rfl

/-! ### What the updates write -/

@[simp] theorem State.changePort_get (t u : Trib) (f : Port → Port) (s : State) :
    (s.changePort t f).ports.get u = if u = t then f (s.ports.get t) else s.ports.get u := Quad.get_set ..

@[simp] theorem State.changePorts_get (t : Trib) (f : Trib → Port → Port) (s : State) :
    (s.changePorts f).ports.get t = f t (s.ports.get t) := Quad.get_ofFn ..

@[simp] theorem State.changeReceiver_get (l k : Line) (f : Receiver → Receiver) (s : State) :
    (s.changeReceiver l f).receivers.get k = if k = l then f (s.receivers.get l) else s.receivers.get k :=
  Pair.get_set ..

@[simp] theorem State.changeEgress_get (l k : Line) (f : Egress → Egress) (s : State) :
    (s.changeEgress l f).egresses.get k = if k = l then f (s.egresses.get l) else s.egresses.get k :=
  Pair.get_set ..

@[simp] theorem State.changeRing_ring (f : RingUnit → RingUnit) (s : State) : (s.changeRing f).ring = f s.ring := rfl

@[simp] theorem State.raiseAll_get (k : ReportKind) (t : Trib) (s : State) :
    (s.raiseAll k).ports.get t = (s.ports.get t).raise k := Quad.get_ofFn ..

@[simp] theorem State.raiseMembers_get (k : ReportKind) (m : Members) (t : Trib) (s : State) :
    (s.raiseMembers k m).ports.get t = if m.tribs.get t then (s.ports.get t).raise k else s.ports.get t :=
  Quad.get_ofFn ..

@[simp] theorem State.raiseProfile_get (t u : Trib) (s : State) :
    (s.raiseProfile t).ports.get u = if u = t then s.ports.get u else (s.ports.get u).raise .profile :=
  Quad.get_ofFn ..

@[simp] theorem State.offerDataTo_get (m : Members) (urgent : Bool) (r : DeliveryRecord) (t : Trib) (s : State) :
    (s.offerDataTo m urgent r).ports.get t
      = if m.tribs.get t then (s.ports.get t).offerData urgent r else s.ports.get t := Quad.get_ofFn ..

@[simp] theorem State.offerNoticeTo_get (m : Members) (r : DeliveryRecord) (t : Trib) (s : State) :
    (s.offerNoticeTo m r).ports.get t = if m.tribs.get t then (s.ports.get t).offerNotice r else s.ports.get t :=
  Quad.get_ofFn ..

@[simp] theorem State.offerLine_get (l k : Line) (q : QueueName) (f : RingFrame) (s : State) :
    (s.offerLine l q f).egresses.get k
      = if k = l then (s.egresses.get l).offer (s.isOpen l) s.profile.serviceList s.profile.urgentBurst q f
        else s.egresses.get k := Pair.get_set ..

/-- Each egress takes or refuses its copy independently of the other (R91, R159). -/
@[simp] theorem State.offerBoth_get (l : Line) (q : QueueName) (f : RingFrame) (s : State) :
    (s.offerBoth q f).egresses.get l
      = (s.egresses.get l).offer (s.isOpen l) s.profile.serviceList s.profile.urgentBurst q f := by
  cases l <;> rfl

/-- A reading that a due timer leaves (R7): the due reading, unless the time base has passed it. -/
theorem State.advanceTo_timeBase (due : Time) (s : State) :
    (s.advanceTo due).timeBase = if reached s.timeBase due then s.timeBase else due := by
  unfold State.advanceTo
  split <;> rfl

/-- A timer that expires when it falls due leaves the time base at the due reading (R64). -/
theorem State.advanceTo_of_due (s : State) : s.advanceTo s.timeBase = s := by
  unfold State.advanceTo
  split <;> rfl

/-- The egress of a line is open exactly while its receiver is LOCKED (R121). -/
theorem State.isOpen_iff (s : State) (l : Line) : s.isOpen l = true ↔ (s.receivers.get l).state = .locked := by
  simp [State.isOpen]

/-- Looking up an entry depends on the table alone. -/
theorem State.find_congr {s t : State} (h : s.table = t.table) (id : StreamId) : s.find id = t.find id := by
  unfold State.find
  rw [h]

end Sys2Proof.Machine
end

