-- ==== Sys2Proof/Laws/Codec.lean ====
section
/-! SUPPORT. Laws of the byte layouts (R8, R12, R13) and of the request unit: lengths, the check of a frame that was
built, the coded values read back, and what serving a request does (R164 to R166). -/

namespace Sys2Proof.Machine

/-! ### Numbers in bytes -/

@[simp] theorem beBytes_length (k n : Nat) : (beBytes k n).length = k := by
  induction k with
  | zero => rfl
  | succ k ih => simp [beBytes, ih]

/-- Two bytes, most significant first (00 section 4.1). -/
theorem beBytes_two (n : Nat) : beBytes 2 n = [BitVec.ofNat 8 (n / 256), BitVec.ofNat 8 n] := by
  simp [beBytes]

/-- Three bytes, most significant first (00 section 4.1). -/
theorem beBytes_three (n : Nat) :
    beBytes 3 n = [BitVec.ofNat 8 (n / 65536), BitVec.ofNat 8 (n / 256), BitVec.ofNat 8 n] := by
  simp [beBytes]

/-- Two bytes read as one number. -/
theorem wordOf_toNat (hi lo : Byte) : (wordOf hi lo).toNat = 256 * hi.toNat + lo.toNat := by
  unfold wordOf
  rw [BitVec.toNat_append]
  have := lo.isLt
  rw [Nat.shiftLeft_eq, ← Nat.shiftLeft_eq, ← Nat.shiftLeft_add_eq_or_of_lt this, Nat.shiftLeft_eq]
  omega

/-- A number of 16 bits written in two bytes is read back. -/
theorem wordOf_beBytes (n : Nat) (h : n < 65536) : (wordOf (BitVec.ofNat 8 (n / 256)) (BitVec.ofNat 8 n)).toNat = n := by
  rw [wordOf_toNat, BitVec.toNat_ofNat, BitVec.toNat_ofNat]
  omega

/-- A 16-bit word written in two bytes is read back. -/
theorem wordOf_bytes (w : BitVec 16) : wordOf (BitVec.ofNat 8 (w.toNat / 256)) (BitVec.ofNat 8 w.toNat) = w :=
  BitVec.eq_of_toNat_eq (wordOf_beBytes _ w.isLt)

/-- The two bytes of a word are those it is written in. -/
theorem beBytes_wordOf (hi lo : Byte) : beBytes 2 (wordOf hi lo).toNat = [hi, lo] := by
  rw [beBytes_two, wordOf_toNat]
  have := hi.isLt
  have := lo.isLt
  congr 1
  · apply BitVec.eq_of_toNat_eq
    rw [BitVec.toNat_ofNat]
    omega
  · congr 1
    apply BitVec.eq_of_toNat_eq
    rw [BitVec.toNat_ofNat]
    omega

/-- Byte `k` of a number that is written in `w` bits. -/
theorem extractByte_ofNat {w k : Nat} (n : Nat) (h : k + 8 ≤ w) :
    (BitVec.ofNat w n).extractLsb' k 8 = BitVec.ofNat 8 (n / 2 ^ k) := by
  apply BitVec.eq_of_toNat_eq
  simp only [BitVec.extractLsb'_toNat, BitVec.toNat_ofNat, Nat.shiftRight_eq_div_pow]
  obtain ⟨d, rfl⟩ := Nat.exists_eq_add_of_le h
  rw [show k + 8 + d = k + (8 + d) by ring, pow_add, Nat.mod_mul_right_div_self, pow_add, Nat.mod_mul_right_mod]

/-- A number in two bytes, in the statements' terms (R170). -/
theorem beBytes_eq_twoBytes (n : Nat) : beBytes 2 n = twoBytes (BitVec.ofNat 16 n) := by
  simp [beBytes, twoBytes, extractByte_ofNat]

/-- A number in three bytes, in the statements' terms (R170). -/
theorem beBytes_eq_threeBytes (n : Nat) : beBytes 3 n = threeBytes (BitVec.ofNat 24 n) := by
  simp [beBytes, threeBytes, extractByte_ofNat]

/-- A number in four bytes, in the statements' terms (R170). -/
theorem beBytes_eq_fourBytes (n : Nat) : beBytes 4 n = fourBytes (BitVec.ofNat 32 n) := by
  simp [beBytes, fourBytes, extractByte_ofNat]

/-- A counter of a snapshot (R170). -/
theorem be16_eq (c : BitVec 16) : be16 c = twoBytes c := by simp [be16, beBytes_eq_twoBytes]

/-- A reading of a snapshot (R170). -/
theorem be32_eq (t : Time) : be32 t = fourBytes t := by simp [be32, beBytes_eq_fourBytes]

/-- A signed value in two bytes of two's complement (R170). -/
theorem beSigned_two (i : Int) : beSigned 2 i = twoBytes (BitVec.ofInt 16 i) := by
  rw [beSigned, beBytes_eq_twoBytes]
  congr 1
  apply BitVec.eq_of_toNat_eq
  simp only [BitVec.toNat_ofNat, BitVec.toNat_ofInt]
  omega

/-- A signed value in three bytes of two's complement (R170). -/
theorem beSigned_three (i : Int) : beSigned 3 i = threeBytes (BitVec.ofInt 24 i) := by
  rw [beSigned, beBytes_eq_threeBytes]
  congr 1
  apply BitVec.eq_of_toNat_eq
  simp only [BitVec.toNat_ofNat, BitVec.toNat_ofInt]
  omega

/-! ### The check -/

@[simp] theorem checkBytes_length (bytes : List Byte) : (checkBytes bytes).length = 4 := beBytes_length ..

/-- A byte string with its check appended gives the string back without it (R8). -/
@[simp] theorem withoutCheck_append (bytes : List Byte) : withoutCheck (bytes ++ checkBytes bytes) = bytes := by
  simp [withoutCheck]

/-- A byte string with its check appended passes the check (R8). -/
@[simp] theorem checkHolds_append (bytes : List Byte) : checkHolds (bytes ++ checkBytes bytes) = true := by
  simp [checkHolds, withoutCheck]

/-- A byte string that passes the check is one with its check appended. -/
theorem eq_append_of_checkHolds {bytes : List Byte} (h : checkHolds bytes = true) :
    bytes = withoutCheck bytes ++ checkBytes (withoutCheck bytes) := by
  unfold checkHolds at h
  rw [beq_iff_eq] at h
  rw [h]
  simp [withoutCheck]

/-! ### Layouts -/

@[simp] theorem RingFrame.header_length (f : RingFrame) : f.header.length = 8 := by simp [RingFrame.header]

/-- A ring frame is 12 bytes longer than its payload (R8). -/
@[simp] theorem RingFrame.bytes_length (f : RingFrame) : f.bytes.length = 12 + f.payload.length := by
  simp [RingFrame.bytes]
  omega

/-- A tributary frame is 7 bytes longer than its body (R12). -/
@[simp] theorem tribFrameBytes_length (ty : Byte) (body : List Byte) :
    (tribFrameBytes ty body).length = 7 + body.length := by
  simp [tribFrameBytes]
  omega

@[simp] theorem frameKindOfCode_code (k : FrameKind) : frameKindOfCode k.code = some k := by
  rcases k with c | _
  · cases c <;> rfl
  · rfl

/-- A type code that stands for a kind is its code (R8). -/
theorem code_of_frameKindOfCode {c : Byte} {k : FrameKind} (h : frameKindOfCode c = some k) : k.code = c := by
  revert h
  revert k
  unfold frameKindOfCode
  intro k h
  split at h <;> cases h <;> (apply BitVec.eq_of_toNat_eq; simp_all [FrameKind.code])

@[simp] theorem classOfCode_code (c : StreamClass) : classOfCode c.code = some c := by cases c <;> rfl

@[simp] theorem lineOfCode_code (l : Line) : lineOfCode (lineCode l) = some l := by cases l <;> rfl

@[simp] theorem normalQueueOfCode_code (q : NormalQueue) : normalQueueOfCode q.code = some q := by
  rcases q with _ | t | _
  · rfl
  · cases t <;> rfl
  · rfl

/-! ### Serving a request (R164, R165) -/

/-- A request that is served is the request unit's next one, of the command's tributary, and stands for the command. -/
theorem State.serving_some {s : State} {t : Trib} {i : Instr} {r : Request} (h : s.serving t i = some r) :
    s.nextRequest = some (t, r) ∧ r.command t = i := by
  unfold State.serving at h
  split at h
  · rename_i u r' hn
    split at h
    · rename_i hc
      cases h
      obtain ⟨rfl, hi⟩ := hc
      exact ⟨hn, hi⟩
    · cases h
  · cases h

/-- The request unit's next request is the head of its tributary's buffer, whose reply slot is empty (R164). -/
theorem State.nextRequest_some {s : State} {t : Trib} {r : Request} (h : s.nextRequest = some (t, r)) :
    (s.ports.get t).reply = none ∧ ∃ rest, (s.ports.get t).requests = r :: rest := by
  unfold State.nextRequest at h
  obtain ⟨u, -, hu⟩ := List.exists_of_findSome?_eq_some h
  rcases he : s.eligible u with _ | r'
  · rw [he] at hu
    cases hu
  · rw [he] at hu
    cases hu
    unfold State.eligible at he
    split at he
    · refine ⟨by assumption, ?_⟩
      rcases hq : (s.ports.get t).requests with _ | ⟨x, rest⟩
      · rw [hq] at he
        cases he
      · rw [hq] at he
        cases he
        exact ⟨rest, rfl⟩
    · cases he

/-- A request command with its request next is one execution (R165). -/
theorem State.serve_of_serving {s : State} {t : Trib} {i : Instr} {r : Request} (h : s.serving t i = some r)
    (act : State → Answer) : s.serve t i act = s.execute t r act := by
  unfold State.serve
  rw [h]

/-- A request command without its request next does not take place (log 2). -/
theorem State.serve_of_none {s : State} {t : Trib} {i : Instr} (h : s.serving t i = none) (act : State → Answer) :
    s.serve t i act = s := by
  unfold State.serve
  rw [h]

/-- A property that every execution keeps is kept by serving. -/
theorem State.serve_keeps {Inv : State → Prop} {s : State} {t : Trib} {i : Instr} {act : State → Answer} (h : Inv s)
    (hact : ∀ r, s.serving t i = some r → Inv (s.execute t r act)) : Inv (s.serve t i act) := by
  rcases hs : s.serving t i with _ | r
  · rw [State.serve_of_none hs]
    exact h
  · rw [State.serve_of_serving hs]
    exact hact r hs

end Sys2Proof.Machine
end

