-- ==== Sys2Proof/Laws/Idle.lean ====
section
/-! SUPPORT. Laws of the part's own steps: when a due reading is reached (R7), and that the step the part takes by itself
is one of those it could take, each of them due (log 4). -/

namespace Sys2Proof.Machine

/-- A due reading is reached when the signed difference is not negative (R7). -/
theorem reached_iff (now due : Time) : reached now due = true ↔ 0 ≤ (now - due).toInt := by
  have := (now - due).isLt
  simp only [reached, decide_eq_true_eq, BitVec.toInt_eq_toNat_cond]
  split <;> omega

/-- A timer gives a command exactly when it runs and its due reading is reached. -/
theorem dueCommand_eq_some {now : Time} {timer : Option Time} {i j : Instr} :
    dueCommand now timer i = some j ↔ j = i ∧ ∃ due ∈ timer, reached now due = true := by
  cases timer with
  | none => simp [dueCommand]
  | some due =>
    by_cases h : reached now due = true
    · simp only [dueCommand, h, if_true, Option.some.injEq, Option.mem_def, exists_eq_left', and_true]
      exact eq_comm
    · simp [dueCommand, h]

/-- The step the part takes is one of those it could take. -/
theorem State.ownStep_mem {s : State} {i : Instr} (h : s.ownStep = some i) : some i ∈ s.ownSteps := by
  obtain ⟨x, hx, hi⟩ := List.exists_of_findSome?_eq_some h
  exact hi ▸ hx

/-- With no step of its own, none of those it could take is due. -/
theorem State.ownStep_none {s : State} (h : s.ownStep = none) : ∀ x ∈ s.ownSteps, x = none := fun x hx => by
  simpa using List.findSome?_eq_none_iff.mp h x hx

end Sys2Proof.Machine
end

