-- ==== Sys2Proof/Laws/Lines.lean ====
section
/-! SUPPORT. Laws of one line egress and one line receiver: what a choice of the transmit arbiter can do (R125 to R127),
what an offer can do (R123), that each operation keeps a legal egress legal, and the levels of the equalizer search
(R105, R106, R108). -/

namespace Sys2Proof.Machine

/-! ### The arbiter's choice -/

/-- The head of a non-empty queue is taken and put in flight (R125). -/
theorem Egress.take_cons {e : Egress} {q : QueueName} {f : RingFrame} {rest : List RingFrame}
    (h : e.queues.get q = f :: rest) :
    e.take q = { e with queues := e.queues.set q rest, inFlight := some (f, q) } := by
  simp [Egress.take, h]

/-- Some normal queue holds a frame (R126). -/
theorem Egress.normalWaiting_iff (e : Egress) :
    e.normalWaiting = true ↔ ∃ q : NormalQueue, e.queues.get (.normal q) ≠ [] := by
  unfold Egress.normalWaiting
  simp only [PerQueue.toList, List.tail_cons, List.any_cons, List.any_nil, Bool.or_false, Bool.or_eq_true,
    Bool.not_eq_true', List.isEmpty_eq_false_iff]
  constructor
  · rintro (h | h | h | h | h | h)
    · exact ⟨.fwd, h⟩
    · exact ⟨.loc .t0, h⟩
    · exact ⟨.loc .t1, h⟩
    · exact ⟨.loc .t2, h⟩
    · exact ⟨.loc .t3, h⟩
    · exact ⟨.own, h⟩
  · rintro ⟨q, h⟩
    rcases q with _ | t | _
    · exact .inl h
    · cases t <;> simp_all [PerQueue.get, Quad.get]
    · simp_all [PerQueue.get]

/-- Every position of the list is visited (R127). -/
theorem mem_visitOrder {n position i : Nat} (hi : i < n) : i ∈ visitOrder n position := by
  unfold visitOrder
  have hn : 0 < n := by omega
  have hp : position % n < n := Nat.mod_lt _ hn
  simp only [List.mem_map, List.mem_range]
  by_cases h : position % n ≤ i
  · refine ⟨i - position % n, by omega, ?_⟩
    rw [Nat.add_mod, Nat.mod_eq_of_lt (a := i - position % n) (by omega)]
    rw [show position % n + (i - position % n) = i by omega, Nat.mod_eq_of_lt hi]
  · refine ⟨i + n - position % n, by omega, ?_⟩
    rw [Nat.add_mod, Nat.mod_eq_of_lt (a := i + n - position % n) (by omega)]
    rw [show position % n + (i + n - position % n) = i + n by omega, Nat.add_mod_right, Nat.mod_eq_of_lt hi]

/-- A position that a scan stops at is one of the list, and its queue holds a frame (R127). -/
theorem Egress.scan_some {list : List NormalQueue} {e : Egress} {i : Nat} {q : NormalQueue}
    (h : e.scan list = some (i, q)) : list[i]? = some q ∧ e.queues.get (.normal q) ≠ [] := by
  unfold Egress.scan at h
  obtain ⟨k, -, hk⟩ := List.exists_of_findSome?_eq_some h
  split at hk
  · split at hk
    · simp at hk
    · simp only [Option.some.injEq, Prod.mk.injEq] at hk
      obtain ⟨rfl, rfl⟩ := hk
      simp_all
  · simp at hk

/-- A scan finds a position when a queue that the list names holds a frame (R127). -/
theorem Egress.scan_isSome {list : List NormalQueue} {e : Egress} {q : NormalQueue} (hq : q ∈ list)
    (hf : e.queues.get (.normal q) ≠ []) : (e.scan list).isSome = true := by
  obtain ⟨i, hi, rfl⟩ := List.mem_iff_getElem.mp hq
  unfold Egress.scan
  rw [List.findSome?_isSome_iff]
  exact ⟨i, mem_visitOrder hi, by simp_all [List.isEmpty_iff]⟩

/-- What a choice of the arbiter does (R125 to R127): nothing when the egress is closed, a frame is in flight or no
queue holds a frame that it may take; otherwise an urgent choice or a normal choice. -/
theorem Egress.choose_cases (isOpen : Bool) (list : List NormalQueue) (burst : Nat) (e : Egress) :
    (e.choose isOpen list burst = e ∧
      (isOpen = false ∨ e.inFlight ≠ none ∨ ((e.queues.urgent = [] ∨ e.credit = 0 ∧ e.normalWaiting = true)
        ∧ e.scan list = none))) ∨
    (isOpen = true ∧ e.inFlight = none ∧ ∃ f rest, e.queues.urgent = f :: rest ∧
      (0 < e.credit ∨ e.normalWaiting = false) ∧
      e.choose isOpen list burst =
        { e with
          queues := e.queues.set .urgent rest, inFlight := some (f, .urgent), credit := e.credit - 1 }) ∨
    (isOpen = true ∧ e.inFlight = none ∧ (e.queues.urgent = [] ∨ e.credit = 0 ∧ e.normalWaiting = true) ∧
      ∃ i q f rest, e.scan list = some (i, q) ∧ e.queues.get (.normal q) = f :: rest ∧
        e.choose isOpen list burst =
          { e with
            queues := e.queues.set (.normal q) rest, inFlight := some (f, .normal q),
            position := (i + 1) % list.length, credit := burst }) := by
  unfold Egress.choose
  by_cases hc : isOpen = true ∧ e.inFlight = none
  · simp only [hc, and_self, if_true]
    by_cases hu : e.queues.urgent ≠ [] ∧ (0 < e.credit ∨ e.normalWaiting = false)
    · rw [if_pos hu]
      obtain ⟨f, rest, hf⟩ := List.exists_cons_of_ne_nil hu.1
      refine .inr (.inl ⟨trivial, trivial, f, rest, hf, hu.2, ?_⟩)
      unfold Egress.urgentChoice
      rw [Egress.take_cons (q := .urgent) hf]
    · rw [if_neg hu]
      have hn : e.queues.urgent = [] ∨ e.credit = 0 ∧ e.normalWaiting = true := by
        by_cases h : e.queues.urgent = []
        · exact .inl h
        · refine .inr ⟨?_, ?_⟩
          · by_contra h0
            exact hu ⟨h, .inl (by omega)⟩
          · by_contra h0
            exact hu ⟨h, .inr (by simpa using h0)⟩
      unfold Egress.normalChoice
      rcases hs : e.scan list with _ | ⟨i, q⟩
      · exact .inl ⟨rfl, .inr (.inr ⟨hn, rfl⟩)⟩
      · refine .inr (.inr ⟨trivial, trivial, hn, i, q, ?_⟩)
        obtain ⟨-, hq⟩ := Egress.scan_some hs
        obtain ⟨f, rest, hf⟩ := List.exists_cons_of_ne_nil hq
        refine ⟨f, rest, rfl, hf, ?_⟩
        simp only
        rw [Egress.take_cons hf]
  · rw [if_neg hc]
    refine .inl ⟨rfl, ?_⟩
    by_cases ho : isOpen = true
    · exact .inr (.inl fun hi => hc ⟨ho, hi⟩)
    · exact .inl (by simpa using ho)

@[simp] theorem Egress.choose_sent (isOpen : Bool) (list : List NormalQueue) (burst : Nat) (e : Egress) :
    (e.choose isOpen list burst).sent = e.sent := by
  rcases e.choose_cases isOpen list burst with ⟨h, -⟩ | ⟨-, -, f, rest, -, -, h⟩ | ⟨-, -, -, i, q, f, rest, -, -, h⟩ <;>
    rw [h]

@[simp] theorem Egress.choose_drops (isOpen : Bool) (list : List NormalQueue) (burst : Nat) (e : Egress) :
    (e.choose isOpen list burst).drops = e.drops := by
  rcases e.choose_cases isOpen list burst with ⟨h, -⟩ | ⟨-, -, f, rest, -, -, h⟩ | ⟨-, -, -, i, q, f, rest, -, -, h⟩ <;>
    rw [h]

@[simp] theorem Egress.choose_lineDown (isOpen : Bool) (list : List NormalQueue) (burst : Nat) (e : Egress) :
    (e.choose isOpen list burst).lineDown = e.lineDown := by
  rcases e.choose_cases isOpen list burst with ⟨h, -⟩ | ⟨-, -, f, rest, -, -, h⟩ | ⟨-, -, -, i, q, f, rest, -, -, h⟩ <;>
    rw [h]

@[simp] theorem Egress.choose_aborts (isOpen : Bool) (list : List NormalQueue) (burst : Nat) (e : Egress) :
    (e.choose isOpen list burst).aborts = e.aborts := by
  rcases e.choose_cases isOpen list burst with ⟨h, -⟩ | ⟨-, -, f, rest, -, -, h⟩ | ⟨-, -, -, i, q, f, rest, -, -, h⟩ <;>
    rw [h]

/-- An egress with nothing queued and nothing in flight has nothing to choose. -/
theorem Egress.choose_empty (isOpen : Bool) (list : List NormalQueue) (burst : Nat) {e : Egress}
    (h : e.queues = noFrames) : e.choose isOpen list burst = e := by
  rcases e.choose_cases isOpen list burst with ⟨hc, -⟩ | ⟨-, -, f, rest, hf, -⟩ | ⟨-, -, -, i, q, f, rest, -, hf, -⟩
  · exact hc
  · rw [h] at hf
    simp [noFrames] at hf
  · rw [h, noFrames_get] at hf
    simp at hf

/-- A closed egress chooses nothing (R125). -/
theorem Egress.choose_closed (list : List NormalQueue) (burst : Nat) (e : Egress) : e.choose false list burst = e := by
  simp [Egress.choose]

/-! ### Legality of an egress -/

/-- A choice leaves a legal egress legal, and an open egress whose queues hold frames with a frame in flight (R125). -/
theorem Egress.choose_legal {isOpen : Bool} {p : Profile} {e : Egress} (hp : ProfileLegal p)
    (hcap : ∀ q : QueueName, (e.queues.get q).length ≤ q.capacity) (hclosed : isOpen = false → e.queues = noFrames)
    (hcredit : e.credit ≤ p.urgentBurst) (hpos : e.position < p.serviceList.length) :
    EgressLegal isOpen p (e.choose isOpen p.serviceList p.urgentBurst) := by
  have shorter : ∀ (q r : QueueName) (f : RingFrame) (rest : List RingFrame), e.queues.get q = f :: rest →
      ((e.queues.set q rest).get r).length ≤ r.capacity := by
    intro q r f rest h
    rw [PerQueue.get_set]
    split
    case isTrue hr => have := hcap q; rw [h] at this; simp at this; subst hr; omega
    case isFalse => exact hcap r
  rcases e.choose_cases isOpen p.serviceList p.urgentBurst with
    ⟨h, hw⟩ | ⟨ho, -, f, rest, hf, -, h⟩ | ⟨ho, -, -, i, q, f, rest, hs, hf, h⟩
  · rw [h]
    refine ⟨hcap, hclosed, ?_, hcredit, hpos⟩
    intro hi
    rcases hw with hw | hw | ⟨hw, hs⟩
    · exact hclosed hw
    · exact absurd hi hw
    · have hn : ∀ q : NormalQueue, e.queues.get (.normal q) = [] := by
        intro q
        by_contra hq
        have := Egress.scan_isSome (hp.named q) hq
        simp [hs] at this
      apply PerQueue.eq_noFrames
      intro q
      rcases q with _ | q
      · rcases hw with hw | ⟨-, hw⟩
        · exact hw
        · obtain ⟨q, hq⟩ := e.normalWaiting_iff.mp hw
          exact absurd (hn q) hq
      · exact hn q
  · rw [h]
    exact ⟨fun r => shorter .urgent r f rest hf, fun hc => by simp [ho] at hc, fun hi => by simp at hi,
      by simp; omega, hpos⟩
  · rw [h]
    refine ⟨fun r => shorter _ r f rest hf, fun hc => by simp [ho] at hc, fun hi => by simp at hi, le_refl _, ?_⟩
    exact Nat.mod_lt _ (by have := hp.serviceList.1; omega)

theorem Egress.offer_legal {isOpen : Bool} {p : Profile} {e : Egress} (hp : ProfileLegal p)
    (h : EgressLegal isOpen p e) (q : QueueName) (f : RingFrame) :
    EgressLegal isOpen p (e.offer isOpen p.serviceList p.urgentBurst q f) := by
  unfold Egress.offer
  split
  · exact ⟨h.capacity, h.closedEmpty, h.freeIdle, h.credit, h.position⟩
  · exact ⟨h.capacity, h.closedEmpty, h.freeIdle, h.credit, h.position⟩
  · rename_i hj
    unfold Egress.judge at hj
    split at hj
    · simp at hj
    · split at hj
      · simp at hj
      · rename_i ho hq
        refine Egress.choose_legal hp ?_ (fun hc => absurd hc ho) h.credit h.position
        intro r
        simp only [PerQueue.get_set]
        split
        · rename_i hr
          subst hr
          simp
          omega
        · exact h.capacity r

theorem Egress.endOfTransmission_legal {isOpen : Bool} {p : Profile} {e : Egress} (hp : ProfileLegal p)
    (h : EgressLegal isOpen p e) : EgressLegal isOpen p (e.endOfTransmission isOpen p.serviceList p.urgentBurst) := by
  unfold Egress.endOfTransmission
  split
  · exact Egress.choose_legal hp h.capacity h.closedEmpty h.credit h.position
  · exact h

/-- A flushed egress is legal, open or closed (R130, R132). -/
theorem Egress.flush_legal {isOpen wasOpen : Bool} {p : Profile} {e : Egress} (h : EgressLegal wasOpen p e) :
    EgressLegal isOpen p (e.flush p.urgentBurst) :=
  ⟨fun q => by simp [Egress.flush], fun _ => rfl, fun _ => rfl, le_refl _, h.position⟩

theorem Egress.abort_legal {isOpen wasOpen : Bool} {p : Profile} {e : Egress} (h : EgressLegal wasOpen p e) :
    EgressLegal isOpen p (e.abort p.urgentBurst) :=
  ⟨fun q => by simp [Egress.abort, Egress.flush], fun _ => rfl, fun _ => rfl, le_refl _, h.position⟩

/-- An egress that holds no frames is legal whether its line is LOCKED or not (R133). -/
theorem EgressLegal.reopen {isOpen wasOpen : Bool} {p : Profile} {e : Egress} (h : EgressLegal wasOpen p e)
    (hq : e.queues = noFrames) : EgressLegal isOpen p e :=
  ⟨h.capacity, fun _ => hq, fun _ => hq, h.credit, h.position⟩

/-! ### The receiver's levels -/

/-- A step within SEARCH keeps the level between the floor and 15 (R105, R106). -/
theorem stepLevel_bounds {floor level : Nat} (hf : floor ≤ 15) (hl : floor ≤ level) :
    floor ≤ stepLevel floor level ∧ stepLevel floor level ≤ 15 := by
  unfold stepLevel
  split <;> omega

/-- The level at a departure from LOCKED lies between the floor and 15 (R105, R108). -/
theorem nextLevel_bounds {floor : Nat} (level : Nat) (hf : floor ≤ 15) :
    floor ≤ nextLevel floor level ∧ nextLevel floor level ≤ 15 := by
  unfold nextLevel
  split <;> omega

end Sys2Proof.Machine
end

