-- ==== Sys2Proof/Laws/Table.lean ====
section
/-! SUPPORT. Laws of the stream table: what looking an identifier up gives after an entry is placed, changed or freed
(R16, R20, R21), that the ascending order is kept, and what settling, leaving, releasing and a teardown leave of an
entry (R18, R24, R31, R38). -/

namespace Sys2Proof.Machine

/-! ### Looking up -/

/-- An entry that is found has the identifier it was looked up by. -/
theorem findEntry_id {id : StreamId} {table : List Entry} {e : Entry} (h : findEntry id table = some e) : e.id = id := by
  simpa using List.find?_some h

/-- An entry that is found is in the table. -/
theorem findEntry_mem {id : StreamId} {table : List Entry} {e : Entry} (h : findEntry id table = some e) : e ∈ table :=
  List.mem_of_find?_eq_some h

/-- Nothing is found exactly when no entry has the identifier. -/
theorem findEntry_none {id : StreamId} {table : List Entry} :
    findEntry id table = none ↔ ∀ e ∈ table, e.id ≠ id := by
  simp [findEntry]

/-- The place of an identifier in the order tells identifiers apart. -/
theorem StreamId.key_inj {x y : StreamId} (h : x.key = y.key) : x = y := by
  obtain ⟨xb, xi⟩ := x
  obtain ⟨yb, yi⟩ := y
  simp only [StreamId.key] at h
  have := xi.isLt
  have := yi.isLt
  have hb : xb.toNat = yb.toNat := by omega
  have hi : xi.toNat = yi.toNat := by omega
  rw [BitVec.eq_of_toNat_eq hb, BitVec.eq_of_toNat_eq hi]

/-- In an ordered table an entry that is in it is the one found by its identifier (R20). -/
theorem findEntry_of_mem {table : List Entry} (ho : table.Pairwise fun x y => x.id.key < y.id.key) {e : Entry}
    (he : e ∈ table) : findEntry e.id table = some e := by
  induction table with
  | nil => simp at he
  | cons x rest ih =>
    rw [List.pairwise_cons] at ho
    unfold findEntry
    rw [List.find?_cons]
    rcases List.mem_cons.mp he with rfl | hr
    · simp
    · have hne : x.id ≠ e.id := by
        intro h
        have := ho.1 e hr
        rw [h] at this
        omega
      simp only [hne, decide_false]
      exact ih ho.2 hr

/-! ### Placing an entry -/

/-- What is found after an entry with a new identifier is placed (R20). -/
theorem findEntry_insertEntry {e : Entry} {table : List Entry} (hn : findEntry e.id table = none) (id : StreamId) :
    findEntry id (insertEntry e table) = if id = e.id then some e else findEntry id table := by
  rw [findEntry_none] at hn
  unfold insertEntry
  induction table with
  | nil =>
    simp only [List.orderedInsert_nil, findEntry, List.find?_cons, List.find?_nil]
    by_cases h : e.id = id
    · simp [h]
    · simp [h, Ne.symm h]
  | cons x rest ih =>
    have hx := hn x (by simp)
    have hrest : ∀ y ∈ rest, y.id ≠ e.id := fun y hy => hn y (by simp [hy])
    rw [List.orderedInsert_cons]
    split
    · simp only [findEntry, List.find?_cons]
      by_cases h : e.id = id
      · simp [h]
      · simp [h, Ne.symm h]
    · have := ih hrest
      simp only [findEntry, List.find?_cons] at this ⊢
      by_cases hxi : x.id = id
      · have : id ≠ e.id := by rw [← hxi]; exact hx
        simp [hxi, this]
      · simpa [hxi] using this

@[simp] theorem length_insertEntry (e : Entry) (table : List Entry) :
    (insertEntry e table).length = table.length + 1 := List.orderedInsert_length ..

/-- The entries after one is placed. -/
theorem mem_insertEntry {e x : Entry} {table : List Entry} : x ∈ insertEntry e table ↔ x = e ∨ x ∈ table :=
  List.mem_orderedInsert ..

/-- Placing an entry with a new identifier keeps the order. -/
theorem insertEntry_ordered {e : Entry} {table : List Entry} (hn : findEntry e.id table = none)
    (ho : table.Pairwise fun x y => x.id.key < y.id.key) :
    (insertEntry e table).Pairwise fun x y => x.id.key < y.id.key := by
  rw [findEntry_none] at hn
  unfold insertEntry
  induction table with
  | nil => simp
  | cons x rest ih =>
    rw [List.pairwise_cons] at ho
    have hx : x.id.key ≠ e.id.key := fun h => hn x (by simp) (StreamId.key_inj h)
    rw [List.orderedInsert_cons]
    split
    · rename_i hle
      refine List.pairwise_cons.mpr ⟨?_, List.pairwise_cons.mpr ho⟩
      intro y hy
      rcases List.mem_cons.mp hy with rfl | hy
      · omega
      · have := ho.1 y hy
        omega
    · rename_i hle
      refine List.pairwise_cons.mpr ⟨?_, ih (fun y hy => hn y (by simp [hy])) ho.2⟩
      intro y hy
      rcases (List.mem_orderedInsert ..).mp hy with rfl | hy
      · omega
      · exact ho.1 y hy

/-! ### Changing or freeing an entry -/

/-- What is found after an entry is changed by a function that keeps its identifier. -/
theorem findEntry_changeEntry {id : StreamId} {f : Entry → Entry} (hf : ∀ e, (f e).id = e.id) (table : List Entry)
    (other : StreamId) :
    findEntry other (changeEntry id (fun e => some (f e)) table)
      = if other = id then (findEntry other table).map f else findEntry other table := by
  unfold changeEntry findEntry
  induction table with
  | nil => simp
  | cons x rest ih =>
    rw [List.filterMap_cons]
    by_cases hx : x.id = id
    · simp only [hx, if_true, List.find?_cons, hf]
      by_cases ho : id = other
      · subst ho
        simp
      · simp only [ho, decide_false]
        rw [ih]
    · simp only [hx, if_false, List.find?_cons]
      by_cases ho : x.id = other
      · have : other ≠ id := by rw [← ho]; exact hx
        simp [ho, this]
      · simp only [ho, decide_false]
        exact ih

/-- Entries with another identifier are found as before, whatever becomes of the entry changed. -/
theorem findEntry_changeEntry_ne {id other : StreamId} {f : Entry → Option Entry}
    (hf : ∀ e e', f e = some e' → e'.id = e.id) (table : List Entry) (h : other ≠ id) :
    findEntry other (changeEntry id f table) = findEntry other table := by
  unfold changeEntry findEntry
  induction table with
  | nil => rfl
  | cons x rest ih =>
    rw [List.filterMap_cons]
    by_cases hx : x.id = id
    · simp only [hx, if_true]
      have hne : id ≠ other := fun e => h e.symm
      rcases hfx : f x with _ | x'
      · simp only [List.find?_cons, hx, hne, decide_false]
        exact ih
      · have : x'.id = id := by rw [hf x x' hfx, hx]
        simp only [List.find?_cons, this, hx, hne, decide_false]
        exact ih
    · simp only [hx, if_false, List.find?_cons]
      by_cases ho : x.id = other
      · simp [ho]
      · simp only [ho, decide_false]
        exact ih

/-- In an ordered table the entry changed is found as the function leaves it, and is not found when it is freed. -/
theorem findEntry_changeEntry_self {id : StreamId} {f : Entry → Option Entry}
    (hf : ∀ e e', f e = some e' → e'.id = e.id) {table : List Entry}
    (ho : table.Pairwise fun x y => x.id.key < y.id.key) :
    findEntry id (changeEntry id f table) = (findEntry id table).bind f := by
  induction table with
  | nil => rfl
  | cons x rest ih =>
    rw [List.pairwise_cons] at ho
    unfold changeEntry
    rw [List.filterMap_cons]
    by_cases hx : x.id = id
    · have hrest : findEntry id rest = none := by
        rw [findEntry_none]
        intro e he hid
        have := ho.1 e he
        rw [hx, hid] at this
        omega
      have htail : findEntry id (changeEntry id f rest) = none := by rw [ih ho.2, hrest]; rfl
      have hfind : findEntry id (x :: rest) = some x := by simp [findEntry, hx]
      rw [hfind]
      simp only [hx, if_true, Option.bind_some]
      rcases hfx : f x with _ | x'
      · exact htail
      · have : x'.id = id := by rw [hf x x' hfx, hx]
        simp [findEntry, this]
    · have hfind : findEntry id (x :: rest) = findEntry id rest := by simp [findEntry, hx]
      rw [hfind, ← ih ho.2]
      simp only [hx, if_false]
      simp [findEntry, hx, changeEntry]

/-- Changing or freeing an entry keeps the order. -/
theorem changeEntry_ordered {id : StreamId} {f : Entry → Option Entry}
    (hf : ∀ e e', f e = some e' → e'.id = e.id) {table : List Entry}
    (ho : table.Pairwise fun x y => x.id.key < y.id.key) :
    (changeEntry id f table).Pairwise fun x y => x.id.key < y.id.key := by
  unfold changeEntry
  rw [List.pairwise_filterMap]
  refine ho.imp ?_
  intro x y hxy x' hx' y' hy'
  have hx : x'.id = x.id := by
    split at hx'
    · exact hf _ _ hx'
    · cases hx'; rfl
  have hy : y'.id = y.id := by
    split at hy'
    · exact hf _ _ hy'
    · cases hy'; rfl
  rw [hx, hy]
  exact hxy

/-- Changing or freeing an entry makes no new one. -/
theorem length_changeEntry_le (id : StreamId) (f : Entry → Option Entry) (table : List Entry) :
    (changeEntry id f table).length ≤ table.length := List.length_filterMap_le ..

/-- The entries after a change: those with another identifier, and what the function leaves of those with it. -/
theorem mem_changeEntry {id : StreamId} {f : Entry → Option Entry} {table : List Entry} {x : Entry} :
    x ∈ changeEntry id f table ↔ ∃ e ∈ table, (e.id ≠ id ∧ x = e) ∨ (e.id = id ∧ f e = some x) := by
  unfold changeEntry
  rw [List.mem_filterMap]
  constructor
  · rintro ⟨e, he, h⟩
    refine ⟨e, he, ?_⟩
    split at h
    · exact .inr ⟨by assumption, h⟩
    · exact .inl ⟨by assumption, by cases h; rfl⟩
  · rintro ⟨e, he, h | h⟩
    · exact ⟨e, he, by simp [h.1, h.2]⟩
    · exact ⟨e, he, by simp [h.1, h.2]⟩

/-! ### Members and holders -/

@[simp] theorem Members.has_put_self (m : Members) (h : Holder) (b : Bool) : (m.put h b).has h = b := by
  cases h <;> simp [Members.put, Members.has]

/-- Other places of the set are left as they were. -/
theorem Members.has_put_ne {m : Members} {h k : Holder} (b : Bool) (hne : k ≠ h) : (m.put h b).has k = m.has k := by
  cases h <;> cases k <;> simp_all [Members.put, Members.has, Quad.get_set]

/-- A subscriber set is empty exactly when it holds no one. -/
theorem Members.eq_empty_iff (m : Members) : m = Members.empty ↔ ∀ h, m.has h = false := by
  constructor
  · rintro rfl h
    rcases h with t | _
    · cases t <;> rfl
    · rfl
  · intro h
    have h0 := h (.trib .t0)
    have h1 := h (.trib .t1)
    have h2 := h (.trib .t2)
    have h3 := h (.trib .t3)
    have h4 := h .mirror
    obtain ⟨⟨a, b, c, d⟩, e⟩ := m
    simp_all [Members.has, Quad.get, Members.empty]

/-- What settling leaves (R18, R21): nothing without a holder; the entry without its records when only a publisher is
left; the entry itself when a subscriber is left. -/
theorem Entry.settle_cases (e : Entry) :
    (e.members = Members.empty ∧ e.publisher = none ∧ e.settle = none) ∨
    (e.members = Members.empty ∧ e.publisher ≠ none ∧ e.settle = some { e with sup := none }) ∨
    (e.members ≠ Members.empty ∧ e.settle = some e) := by
  unfold Entry.settle
  by_cases hm : e.members = Members.empty
  · by_cases hp : e.publisher = none
    · simp [hm, hp]
    · simp [hm, hp]
  · simp [hm]

/-- What is left after settling keeps the identifier, the class, the publisher, the subscribers and the counters. -/
theorem Entry.settle_some {e e' : Entry} (h : e.settle = some e') :
    e'.id = e.id ∧ e'.cls = e.cls ∧ e'.publisher = e.publisher ∧ e'.members = e.members ∧ e'.counters = e.counters := by
  rcases e.settle_cases with ⟨-, -, hs⟩ | ⟨-, -, hs⟩ | ⟨-, hs⟩ <;> rw [hs] at h <;> cases h <;> simp

theorem Entry.leave_id {h : Holder} {e e' : Entry} (hs : e.leave h = some e') : e'.id = e.id :=
  (Entry.settle_some hs).1

theorem Entry.unpublish_id {e e' : Entry} (hs : e.unpublish = some e') : e'.id = e.id := (Entry.settle_some hs).1

theorem Entry.teardown_id {t : Trib} {e e' : Entry} (hs : e.teardown t = some e') : e'.id = e.id := by
  unfold Entry.teardown at hs
  split at hs
  · exact (Entry.settle_some hs).1
  · cases hs; rfl

/-- A teardown leaves the torn-down tributary neither publisher nor subscriber (R38). -/
theorem Entry.teardown_apart {t : Trib} {e e' : Entry} (hs : e.teardown t = some e') :
    e'.publishedBy (.trib t) = false ∧ e'.members.has (.trib t) = false := by
  unfold Entry.teardown at hs
  split at hs
  · obtain ⟨-, -, hp, hm, -⟩ := Entry.settle_some hs
    constructor
    · unfold Entry.publishedBy
      rw [hp]
      simp only
      split
      · rfl
      · rename_i h
        simpa [Entry.publishedBy] using h
    · rw [hm]
      simp
  · rename_i h
    cases hs
    simp only [not_or, Bool.not_eq_true] at h
    exact h

/-- An identifier's entry after a pass over the whole table that keeps identifiers. -/
theorem findEntry_filterMap {f : Entry → Option Entry} (hf : ∀ e e', f e = some e' → e'.id = e.id) {table : List Entry}
    (ho : table.Pairwise fun x y => x.id.key < y.id.key) (id : StreamId) :
    findEntry id (table.filterMap f) = (findEntry id table).bind f := by
  induction table with
  | nil => rfl
  | cons x rest ih =>
    rw [List.pairwise_cons] at ho
    rw [List.filterMap_cons]
    have hstep : findEntry id (x :: rest) = if x.id = id then some x else findEntry id rest := by
      by_cases h : x.id = id <;> simp [findEntry, h]
    rw [hstep]
    by_cases hx : x.id = id
    · have hrest : findEntry id rest = none := by
        rw [findEntry_none]
        intro e he hid
        have := ho.1 e he
        rw [hx, hid] at this
        omega
      rw [if_pos hx, Option.bind_some]
      rcases hfx : f x with _ | x'
      · simp only
        rw [ih ho.2, hrest]
        rfl
      · have : x'.id = id := by rw [hf x x' hfx, hx]
        simp [findEntry, this]
    · rw [if_neg hx, ← ih ho.2]
      rcases hfx : f x with _ | x'
      · rfl
      · have : x'.id ≠ id := by rw [hf x x' hfx]; exact hx
        simp [findEntry, this]

/-- A pass over the whole table that keeps identifiers keeps the order. -/
theorem filterMap_ordered {f : Entry → Option Entry} (hf : ∀ e e', f e = some e' → e'.id = e.id) {table : List Entry}
    (ho : table.Pairwise fun x y => x.id.key < y.id.key) :
    (table.filterMap f).Pairwise fun x y => x.id.key < y.id.key := by
  rw [List.pairwise_filterMap]
  refine ho.imp ?_
  intro x y hxy x' hx' y' hy'
  rw [hf _ _ hx', hf _ _ hy']
  exact hxy

/-- An identifier's entry after every entry is changed by a function that keeps identifiers. -/
theorem findEntry_map {f : Entry → Entry} (hf : ∀ e, (f e).id = e.id) (table : List Entry) (id : StreamId) :
    findEntry id (table.map f) = (findEntry id table).map f := by
  unfold findEntry
  rw [List.find?_map]
  congr 2
  funext e
  simp [hf]

@[simp] theorem Entry.setPublisherState_id (t : Trib) (st : PublisherState) (e : Entry) :
    (e.setPublisherState t st).id = e.id := by
  unfold Entry.setPublisherState
  split <;> rfl

/-- What is found after a member is added (R27 to R30). -/
theorem findEntry_joinTable (own : Bool) (id : StreamId) (h : Holder) (p m : Nat) (table : List Entry)
    (other : StreamId) :
    findEntry other (joinTable own id h p m table)
      = if other = id then
          some (match findEntry id table with
            | some e => { e with members := e.members.put h true, sup := e.sup.map (Supervision.tighten p m) }
            | none => Entry.make id .general none (Members.empty.put h true)
                (if own then none else some (Supervision.initial p m)))
        else findEntry other table := by
  unfold joinTable
  rcases hf : findEntry id table with _ | e
  · simp only
    rw [findEntry_insertEntry (by simpa [Entry.make] using hf)]
    by_cases ho : other = id <;> simp [Entry.make, ho]
  · simp only
    rw [findEntry_changeEntry
      (f := fun e => { e with members := e.members.put h true, sup := e.sup.map (Supervision.tighten p m) })
      (fun _ => rfl)]
    by_cases ho : other = id
    · subst ho
      simp [hf]
    · simp [ho]

end Sys2Proof.Machine
end

