-- ==== Sys2Proof/Laws/Mirror.lean ====
section
/-! SUPPORT. Laws of the contact mirror: samples (R155), settings (R156), the driving of outputs (R161), the bound bays
and the source records (R160). -/

namespace Sys2Proof.Machine

/-! ### Samples and settings -/

/-- A sample keeps the run count below the debounce count, or at the run count it had (R155). -/
theorem ContactInput.sample_run (d : Nat) (level : Bool) (c : ContactInput) :
    (c.sample d level).run < d ∨ (c.sample d level).run = 0 := by
  unfold ContactInput.sample
  split
  · exact .inr rfl
  · split
    · exact .inr rfl
    · left
      dsimp only
      omega

/-- The accepted state changes exactly at an accepted change (R155). -/
theorem ContactInput.sample_accepted (d : Nat) (level : Bool) (c : ContactInput) :
    (c.sample d level).accepted = if c.accepts d level then !c.accepted else c.accepted := by
  unfold ContactInput.sample ContactInput.accepts
  by_cases hl : level = c.accepted
  · simp [hl]
  · by_cases hd : d ≤ c.run + 1
    · simp only [hl, hd, if_false, if_true]
      cases level <;> cases hc : c.accepted <;> simp_all
    · simp [hl, hd]

theorem Mirror.sample_legal {m : Mirror} (h : MirrorLegal m) (levels : Byte) : MirrorLegal (m.sample levels) := by
  refine ⟨h.debounce, h.refresh, ?_, h.timer, ?_, h.unboundLow⟩
  · intro i
    simp only [Mirror.sample, Oct.get_ofFn]
    have := ContactInput.sample_run m.debounce (levels.getLsbD i.val) (m.inputs.get i)
    have := h.debounce
    omega
  · have hc := h.changed
    simp only [Mirror.sample]
    split
    · rw [BitVec.and_comm, BitVec.and_or_distrib_left]
      rw [BitVec.and_comm (~~~m.enableMask) m.changedSet, hc]
      rw [BitVec.and_comm (~~~m.enableMask), BitVec.and_assoc, BitVec.and_not_self]
      simp
    · exact hc

theorem Mirror.framed_legal {m : Mirror} (h : MirrorLegal m) (hp : m.publish = true) (k : ContactFrameKind)
    (now : Time) : MirrorLegal (m.framed k now) :=
  ⟨h.debounce, h.refresh, h.runs, by simp [Mirror.framed, hp], by simp [Mirror.framed], h.unboundLow⟩

/-! ### Outputs -/

/-- Driving the outputs of a bay keeps every binding (R161). -/
theorem Mirror.drive_binding (bay : Byte) (f : Binding → Bool → Bool) (m : Mirror) (i : Fin 8) :
    ((m.drive bay f).outputs.get i).binding = (m.outputs.get i).binding := by
  simp only [Mirror.drive, Oct.get_ofFn]
  split
  · split <;> rfl
  · rfl

/-- The level of an output after the outputs of a bay are driven (R161). -/
theorem Mirror.drive_level (bay : Byte) (f : Binding → Bool → Bool) (m : Mirror) (i : Fin 8) :
    ((m.drive bay f).outputs.get i).level =
      match (m.outputs.get i).binding with
      | some b => if b.bay = bay then f b (m.outputs.get i).level else (m.outputs.get i).level
      | none => (m.outputs.get i).level := by
  simp only [Mirror.drive, Oct.get_ofFn]
  rcases hb : (m.outputs.get i).binding with _ | b
  · rfl
  · dsimp only
    split <;> rfl

theorem Mirror.drive_legal {m : Mirror} (h : MirrorLegal m) (bay : Byte) (f : Binding → Bool → Bool) :
    MirrorLegal (m.drive bay f) := by
  refine ⟨h.debounce, h.refresh, h.runs, h.timer, h.changed, ?_⟩
  intro i hb
  rw [Mirror.drive_binding] at hb
  rw [Mirror.drive_level, hb]
  exact h.unboundLow i hb

theorem Mirror.hearHealth_legal {m : Mirror} (h : MirrorLegal m) (bay : Byte) (v : Health) :
    MirrorLegal (m.hearHealth bay v) :=
  ⟨h.debounce, h.refresh, h.runs, h.timer, h.changed, h.unboundLow⟩

theorem Mirror.hearLost_legal {m : Mirror} (h : MirrorLegal m) (bay : Byte) : MirrorLegal (m.hearLost bay) := by
  refine Mirror.drive_legal ?_ bay _
  exact ⟨h.debounce, h.refresh, h.runs, h.timer, h.changed, h.unboundLow⟩

theorem Mirror.hearData_legal {m : Mirror} (h : MirrorLegal m) (bay : Byte) (v : Verdict) (payload : List Byte) :
    MirrorLegal (m.hearData bay v payload) := by
  unfold Mirror.hearData
  split
  · exact h
  · refine Mirror.drive_legal ?_ bay _
    exact ⟨h.debounce, h.refresh, h.runs, h.timer, h.changed, h.unboundLow⟩
  · exact h

/-! ### Bound bays and source records (R34, R160) -/

/-- A bay is bound when some output's binding names it (R34). -/
theorem mem_boundBays {bay : Byte} {outputs : Oct ContactOutput} :
    bay ∈ boundBays outputs ↔ ∃ i : Fin 8, ∃ b, (outputs.get i).binding = some b ∧ b.bay = bay := by
  unfold boundBays
  rw [List.mem_dedup, List.mem_filterMap]
  constructor
  · rintro ⟨o, ho, hb⟩
    obtain ⟨i, rfl⟩ := (Oct.mem_toList ..).mp ho
    rcases hb' : (outputs.get i).binding with _ | b
    · rw [hb'] at hb
      cases hb
    · rw [hb'] at hb
      cases hb
      exact ⟨i, b, hb', rfl⟩
  · rintro ⟨i, b, hb, rfl⟩
    exact ⟨outputs.get i, (Oct.mem_toList ..).mpr ⟨i, rfl⟩, by simp [hb]⟩

theorem boundBays_nodup (outputs : Oct ContactOutput) : (boundBays outputs).Nodup := List.nodup_dedup _

/-- A source record found has the bay it was looked up by. -/
theorem findSource_bay {bay : Byte} {sources : List Source} {r : Source} (h : findSource bay sources = some r) :
    r.bay = bay := by simpa using List.find?_some h

/-- What is found after a source record is changed by a function that keeps its bay. -/
theorem findSource_changeSource {bay : Byte} {f : Source → Source} (hf : ∀ r, (f r).bay = r.bay) (sources : List Source)
    (other : Byte) :
    findSource other (changeSource bay f sources)
      = if other = bay then (findSource other sources).map f else findSource other sources := by
  unfold changeSource findSource
  induction sources with
  | nil => simp
  | cons x rest ih =>
    rw [List.map_cons]
    by_cases hx : x.bay = bay
    · simp only [hx, if_true, List.find?_cons, hf]
      by_cases ho : bay = other
      · subst ho
        simp
      · simp only [ho, decide_false]
        rw [ih]
    · simp only [hx, if_false, List.find?_cons]
      by_cases ho : x.bay = other
      · have : other ≠ bay := by rw [← ho]; exact hx
        simp [ho, this]
      · simp only [ho, decide_false]
        exact ih

/-- A source record in the order is placed once (R160). -/
theorem mem_insertSource {r x : Source} {sources : List Source} : x ∈ insertSource r sources ↔ x = r ∨ x ∈ sources :=
  List.mem_orderedInsert ..

/-- A binding in range names a bay of 1 to 254 other than the own bay (R160). -/
theorem bindingOf_bay {ownBay : Byte} {f : BindingFields} {b : Binding} (h : bindingOf ownBay f = some b) :
    validBay b.bay = true ∧ b.bay ≠ ownBay ∧ b.bay = f.bay := by
  unfold bindingOf at h
  split at h
  · rename_i hc
    simp only [Option.bind_eq_some_iff, Option.map_eq_some_iff] at h
    obtain ⟨bit, -, policy, -, safe, -, rfl⟩ := h
    exact ⟨hc.1, hc.2, rfl⟩
  · cases h

end Sys2Proof.Machine
end

