-- ==== Sys2Proof/Laws/Ports.lean ====
section
/-! SUPPORT. Laws of one tributary port: what a transmitter choice can do (R98, R99), what a raising, an offer and the
other operations leave as they were, and that each operation keeps a legal port legal. -/

namespace Sys2Proof.Machine

/-! ### The transmitter's choice -/

@[simp] theorem Port.choose_link (p : Port) : p.choose.link = p.link := by
  unfold Port.choose; repeat' (first | rfl | split)

@[simp] theorem Port.choose_holdTimer (p : Port) : p.choose.holdTimer = p.holdTimer := by
  unfold Port.choose; repeat' (first | rfl | split)

@[simp] theorem Port.choose_requests (p : Port) : p.choose.requests = p.requests := by
  unfold Port.choose; repeat' (first | rfl | split)

@[simp] theorem Port.choose_reports (p : Port) : p.choose.reports = p.reports := by
  unfold Port.choose; repeat' (first | rfl | split)

@[simp] theorem Port.choose_counters (p : Port) : p.choose.counters = p.counters := by
  unfold Port.choose; repeat' (first | rfl | split)

/-- A transmitter that is not free chooses nothing (R98). -/
theorem Port.choose_of_busy {p : Port} (h : p.free = false) : p.choose = p := by
  unfold Port.choose
  simp [h]

/-- What a free transmitter's choice does, by the first source that holds something (R99). -/
theorem Port.choose_cases {p : Port} (h : p.free = true) :
    (∃ r rest, p.urgentQ = r :: rest ∧ p.choose = { p with urgentQ := rest, inFlight := some (.delivery r) }) ∨
    (∃ y, p.urgentQ = [] ∧ p.reply = some y ∧ p.choose = { p with reply := none, inFlight := some (.reply y) }) ∨
    (p.urgentQ = [] ∧ p.reply = none ∧ p.report = true ∧
      p.choose = { p with report := false, inFlight := some (.report p.reports) }) ∨
    (∃ r rest, p.urgentQ = [] ∧ p.reply = none ∧ p.report = false ∧ p.normalQ = r :: rest ∧
      p.choose = { p with normalQ := rest, inFlight := some (.delivery r) }) ∨
    (p.urgentQ = [] ∧ p.reply = none ∧ p.report = false ∧ p.normalQ = [] ∧ p.choose = p) := by
  unfold Port.choose
  simp only [h, if_true]
  rcases hu : p.urgentQ with _ | ⟨r, rest⟩
  · rcases hy : p.reply with _ | y
    · cases hr : p.report
      · rcases hn : p.normalQ with _ | ⟨r, rest⟩ <;> simp
      · simp
    · simp
  · simp

/-- A choice takes records from the heads of the queues and adds none. -/
theorem Port.choose_lengths (p : Port) :
    p.choose.urgentQ.length ≤ p.urgentQ.length ∧ p.choose.normalQ.length ≤ p.normalQ.length := by
  cases h : p.free
  · simp [Port.choose_of_busy h]
  · rcases Port.choose_cases h with ⟨r, rest, hu, e⟩ | ⟨y, hu, hy, e⟩ | ⟨hu, hy, hr, e⟩ | ⟨r, rest, hu, hy, hr, hn, e⟩ |
      ⟨hu, hy, hr, hn, e⟩ <;> rw [e] <;> simp_all

/-- After a choice a transmitter that is still free has nothing to send (R98). -/
theorem Port.choose_freeIdle (p : Port) : FreeIdle p.choose := by
  intro hf
  cases h : p.free
  · rw [Port.choose_of_busy h] at hf
    simp [h] at hf
  · rcases Port.choose_cases h with ⟨r, rest, hu, e⟩ | ⟨y, hu, hy, e⟩ | ⟨hu, hy, hr, e⟩ | ⟨r, rest, hu, hy, hr, hn, e⟩ |
      ⟨hu, hy, hr, hn, e⟩ <;> rw [e] at hf ⊢ <;> simp_all [Port.free]

/-- A choice makes no REPORT. -/
theorem Port.choose_report (p : Port) : p.choose.report = true → p.report = true := by
  cases h : p.free
  · simp [Port.choose_of_busy h]
  · rcases Port.choose_cases h with ⟨r, rest, hu, e⟩ | ⟨y, hu, hy, e⟩ | ⟨hu, hy, hr, e⟩ | ⟨r, rest, hu, hy, hr, hn, e⟩ |
      ⟨hu, hy, hr, hn, e⟩ <;> rw [e] <;> simp_all

/-- An UP port that is legal but for its free transmitter is legal after a choice. -/
theorem Port.choose_legal {p : Port} (hb : PortBounded p) (hu : p.link = .up)
    (hr : p.report = true → p.reports ≠ 0) (ht : p.holdTimer = none) : PortLegal p.choose where
  bounded := by
    have := Port.choose_lengths p
    obtain ⟨h1, h2, h3⟩ := hb
    exact ⟨by omega, by omega, by simpa using h3⟩
  downEmpty := by intro h; simp [hu] at h
  freeIdle := Port.choose_freeIdle p
  reportPending := fun h => by simpa using hr (Port.choose_report p h)
  upUntimed := fun _ => by simpa using ht

/-! ### Reports (R171, R172) -/

/-- Adding a kind makes it pending and leaves the others as they were. -/
theorem ReportSet.has_add (s : ReportSet) (k j : ReportKind) : (s.add k).has j = (s.has j || decide (j = k)) := by
  unfold ReportSet.add ReportSet.has
  rw [BitVec.getLsbD_or, BitVec.getLsbD_twoPow]
  cases k <;> cases j <;> simp [ReportKind.bit]

/-- A set to which a kind was added is not empty. -/
theorem ReportSet.add_ne_zero (s : ReportSet) (k : ReportKind) : s.add k ≠ 0 := by
  intro h
  have := ReportSet.has_add s k k
  rw [h] at this
  cases k <;> simp [ReportSet.has] at this

/-- A kind is pending after a CLEAR when it was and the CLEAR does not name it (R172). -/
theorem ReportSet.has_clear (s : ReportSet) (kinds : BitVec 16) (j : ReportKind) :
    (s.clear kinds).has j = (s.has j && !kinds.getLsbD j.bit) := by
  unfold ReportSet.clear ReportSet.has
  rw [BitVec.getLsbD_and, BitVec.getLsbD_not, BitVec.getLsbD_setWidth]
  cases j <;> simp [ReportKind.bit]

/-- A raising to a DOWN port, or of a pending kind, changes nothing (R86, R171). -/
theorem Port.raise_idle {p : Port} {k : ReportKind} (h : p.link = .down ∨ p.reports.has k = true) :
    p.raise k = p := by
  unfold Port.raise
  rcases h with h | h <;> simp [h]

/-- A raising of a kind that is not pending to an UP port (R171). -/
theorem Port.raise_new {p : Port} {k : ReportKind} (hu : p.link = .up) (hn : p.reports.has k = false) :
    p.raise k = ({ p with reports := p.reports.add k, report := true }).choose := by
  unfold Port.raise
  simp [hu, hn]

@[simp] theorem Port.raise_link (k : ReportKind) (p : Port) : (p.raise k).link = p.link := by
  unfold Port.raise; split <;> simp

@[simp] theorem Port.raise_holdTimer (k : ReportKind) (p : Port) : (p.raise k).holdTimer = p.holdTimer := by
  unfold Port.raise; split <;> simp

@[simp] theorem Port.raise_requests (k : ReportKind) (p : Port) : (p.raise k).requests = p.requests := by
  unfold Port.raise; split <;> simp

@[simp] theorem Port.raise_counters (k : ReportKind) (p : Port) : (p.raise k).counters = p.counters := by
  unfold Port.raise; split <;> simp

/-- The pending set after a raising (R86, R171). -/
theorem Port.raise_reports (k : ReportKind) (p : Port) :
    (p.raise k).reports = if p.link = .up ∧ p.reports.has k = false then p.reports.add k else p.reports := by
  unfold Port.raise; split <;> simp

theorem Port.raise_legal {p : Port} (h : PortLegal p) (k : ReportKind) : PortLegal (p.raise k) := by
  unfold Port.raise
  split
  case isTrue hc =>
    exact Port.choose_legal (p := { p with reports := p.reports.add k, report := true }) h.bounded hc.1
      (fun _ => ReportSet.add_ne_zero p.reports k) (h.upUntimed hc.1)
  case isFalse => exact h

/-! ### Delivery records -/

@[simp] theorem Port.offerData_link (urgent : Bool) (r : DeliveryRecord) (p : Port) :
    (p.offerData urgent r).link = p.link := by
  unfold Port.offerData Port.discard Port.placeUrgent Port.placeNormal Port.overrun
  dsimp only
  repeat' split
  all_goals simp

@[simp] theorem Port.offerNotice_link (r : DeliveryRecord) (p : Port) : (p.offerNotice r).link = p.link := by
  unfold Port.offerNotice Port.discard Port.placeNormal Port.overrun
  dsimp only
  repeat' split
  all_goals simp

theorem Port.discard_legal {p : Port} (h : PortLegal p) : PortLegal p.discard :=
  ⟨h.bounded, h.downEmpty, h.freeIdle, h.reportPending, h.upUntimed⟩

theorem Port.overrun_legal {p : Port} (h : PortLegal p) : PortLegal p.overrun :=
  Port.raise_legal (p := { p with counters := { p.counters with overrun := p.counters.overrun + 1 } })
    ⟨h.bounded, h.downEmpty, h.freeIdle, h.reportPending, h.upUntimed⟩ _

theorem Port.placeUrgent_legal {p : Port} (h : PortLegal p) (hu : p.link = .up) (hl : p.urgentQ.length < 8)
    (r : DeliveryRecord) : PortLegal (p.placeUrgent r) := by
  obtain ⟨h1, h2, h3⟩ := h.bounded
  exact Port.choose_legal (p := { p with urgentQ := p.urgentQ ++ [r] })
    ⟨by simp; omega, h2, h3⟩ hu h.reportPending (h.upUntimed hu)

theorem Port.placeNormal_legal {p : Port} (h : PortLegal p) (hu : p.link = .up) (hl : p.normalQ.length < 32)
    (r : DeliveryRecord) : PortLegal (p.placeNormal r) := by
  obtain ⟨h1, h2, h3⟩ := h.bounded
  have hc : PortLegal ({ p with normalQ := p.normalQ ++ [r] } : Port).choose :=
    Port.choose_legal ⟨h1, by simp; omega, h3⟩ hu h.reportPending (h.upUntimed hu)
  unfold Port.placeNormal
  dsimp only
  split
  · exact Port.raise_legal hc _
  · exact hc

theorem Port.offerData_legal {p : Port} (h : PortLegal p) (urgent : Bool) (r : DeliveryRecord) :
    PortLegal (p.offerData urgent r) := by
  unfold Port.offerData
  split
  · exact Port.discard_legal h
  · have hu : p.link = .up := by cases hl : p.link <;> simp_all
    split
    · split
      · exact Port.placeUrgent_legal h hu (by assumption) r
      · exact Port.overrun_legal h
    · split
      · exact Port.placeNormal_legal h hu (by assumption) r
      · exact Port.overrun_legal h

/-- Making a place removes exactly one record of a queue that is not empty (R97). -/
theorem displace_length (q : List DeliveryRecord) : (displace q).length = q.length - 1 := by
  unfold displace
  split
  case isTrue h =>
    obtain ⟨r, hr, hk⟩ := List.any_eq_true.mp h
    exact List.length_eraseP_of_mem hr hk
  case isFalse => simp

theorem Port.offerNotice_legal {p : Port} (h : PortLegal p) (r : DeliveryRecord) : PortLegal (p.offerNotice r) := by
  unfold Port.offerNotice
  split
  · exact Port.discard_legal h
  · have hu : p.link = .up := by cases hl : p.link <;> simp_all
    split
    · exact Port.placeNormal_legal h hu (by assumption) r
    · obtain ⟨h1, h2, h3⟩ := h.bounded
      refine Port.overrun_legal (Port.choose_legal ⟨h1, ?_, h3⟩ hu h.reportPending (h.upUntimed hu))
      simp [displace_length]
      omega

/-! ### Requests, replies and the link -/

theorem Port.bufferRequest_legal {p : Port} (h : PortLegal p) (hu : p.link = .up) (r : Request) :
    PortLegal (p.bufferRequest r) := by
  unfold Port.bufferRequest
  obtain ⟨h1, h2, h3⟩ := h.bounded
  split
  case isTrue hl =>
    simp only [Config.requestBufferCapacity] at hl
    exact ⟨⟨h1, h2, by simp; omega⟩, fun hd => by simp [hu] at hd, h.freeIdle, h.reportPending, h.upUntimed⟩
  case isFalse => exact ⟨h.bounded, h.downEmpty, h.freeIdle, h.reportPending, h.upUntimed⟩

theorem Port.takeRequest_legal {p : Port} (h : PortLegal p) : PortLegal p.takeRequest := by
  obtain ⟨h1, h2, h3⟩ := h.bounded
  refine ⟨⟨h1, h2, ?_⟩, ?_, h.freeIdle, h.reportPending, h.upUntimed⟩
  · simp [Port.takeRequest]; omega
  · intro hd
    obtain ⟨a, b, c, d⟩ := h.downEmpty hd
    exact ⟨a, b, by simp [Port.takeRequest, c], d⟩

theorem Port.placeReply_legal {p : Port} (h : PortLegal p) (hu : p.link = .up) (y : Reply) :
    PortLegal (p.placeReply y) :=
  Port.choose_legal (p := { p with reply := some y }) h.bounded hu h.reportPending (h.upUntimed hu)

theorem Port.emptyQueues_legal {p : Port} (h : PortLegal p) : PortLegal p.emptyQueues := by
  obtain ⟨h1, h2, h3⟩ := h.bounded
  refine ⟨⟨by simp [Port.emptyQueues], by simp [Port.emptyQueues], h3⟩, ?_, ?_, h.reportPending, h.upUntimed⟩
  · intro hd
    obtain ⟨a, b, c, d⟩ := h.downEmpty hd
    exact ⟨rfl, rfl, c, d⟩
  · intro hf
    obtain ⟨a, b, c, d⟩ := h.freeIdle hf
    exact ⟨rfl, b, c, rfl⟩

/-- A link that is lost leaves an empty DOWN port (R85). -/
theorem Port.linkLost_legal {p : Port} (timer : Option Time) :
    PortLegal { p.linkLost with holdTimer := timer } := by
  refine ⟨⟨?_, ?_, ?_⟩, ?_, ?_, ?_, ?_⟩ <;>
    simp [Port.linkLost, Port.emptyQueues, DownEmpty, FreeIdle, Port.free]

/-- A link that comes UP on a legal port has nothing to send (R84). -/
theorem Port.linkPresent_eq {p : Port} (h : PortLegal p) (hd : p.link = .down) :
    p.linkPresent = { p with link := .up, holdTimer := none } := by
  obtain ⟨a, b, c, d, e, f, g⟩ := h.downEmpty hd
  simp [Port.linkPresent, Port.choose, Port.free, a, b, d, e, g]

theorem Port.linkPresent_legal {p : Port} (h : PortLegal p) : PortLegal p.linkPresent :=
  Port.choose_legal (p := { p with link := .up, holdTimer := none }) h.bounded rfl h.reportPending rfl

theorem Port.endOfTransmission_legal {p : Port} (h : PortLegal p) : PortLegal p.endOfTransmission := by
  unfold Port.endOfTransmission
  have up : ∀ f, p.inFlight = some f → p.link = .up := by
    intro f hf
    cases hl : p.link
    · have := (h.downEmpty hl).2.2.2.2.2.2
      simp [hf] at this
    · rfl
  split
  · rename_i r hf
    exact Port.choose_legal
      (p := { p with inFlight := none, counters := { p.counters with delivered := p.counters.delivered + 1 } })
      h.bounded (up _ hf) h.reportPending (h.upUntimed (up _ hf))
  · rename_i f _ hf
    exact Port.choose_legal (p := { p with inFlight := none }) h.bounded (up _ hf) h.reportPending
      (h.upUntimed (up _ hf))
  · exact h

theorem Port.clearReports_legal {p : Port} (h : PortLegal p) (kinds : BitVec 16) :
    PortLegal (p.clearReports kinds) := by
  refine ⟨h.bounded, ?_, ?_, ?_, h.upUntimed⟩
  · intro hd
    obtain ⟨a, b, c, d, e, f, g⟩ := h.downEmpty hd
    refine ⟨a, b, c, d, ?_, ?_, g⟩ <;> simp [Port.clearReports, ReportSet.clear, f]
  · intro hf
    obtain ⟨a, b, c, d⟩ := h.freeIdle hf
    exact ⟨a, b, by simp [Port.clearReports, c], d⟩
  · intro hr
    simp only [Port.clearReports] at hr ⊢
    split at hr
    · simp at hr
    · assumption

end Sys2Proof.Machine
end

