-- ==== Sys2Proof/Laws/Ring.lean ====
section
/-! SUPPORT. Laws of the ring unit: the outstanding lists (R143), the ring state (R147), and that emissions, returns,
roster entries and expiries keep a legal ring unit legal (R136, R145, R150, R151). -/

namespace Sys2Proof.Machine

/-- What an addition leaves (R143): the new record at the tail of records the list held, each of another sequence. -/
theorem addOutstanding_spec (r : Outstanding) (list : List Outstanding) :
    ∃ kept : List Outstanding, addOutstanding r list = kept ++ [r] ∧ List.Sublist kept list
      ∧ ∀ o ∈ kept, o.seq ≠ r.seq := by
  have hf : ∀ o ∈ list.filter fun o => o.seq ≠ r.seq, o.seq ≠ r.seq := fun o h => by
    simpa using (List.mem_filter.mp h).2
  unfold addOutstanding
  dsimp only
  split
  · exact ⟨_, rfl, (List.tail_sublist _).trans List.filter_sublist, fun o h => hf o (List.mem_of_mem_tail h)⟩
  · exact ⟨_, rfl, List.filter_sublist, hf⟩

/-- The record just added is in the list. -/
theorem mem_addOutstanding (r : Outstanding) (list : List Outstanding) : r ∈ addOutstanding r list := by
  obtain ⟨kept, h, -⟩ := addOutstanding_spec r list
  simp [h]

/-- An outstanding list holds at most four records (R143). -/
theorem addOutstanding_length (r : Outstanding) {list : List Outstanding} (h : list.length ≤ 4) :
    (addOutstanding r list).length ≤ 4 := by
  have hcap : Config.outstandingCapacity = 4 := rfl
  have hf := List.length_filter_le (fun o : Outstanding => decide (o.seq ≠ r.seq)) list
  unfold addOutstanding
  dsimp only
  rw [List.length_append, List.length_singleton]
  split
  · rw [List.length_tail]
    omega
  · omega

/-- The sequences of an outstanding list stay distinct (R143). -/
theorem addOutstanding_distinct (r : Outstanding) {list : List Outstanding} (h : (list.map fun o => o.seq).Nodup) :
    ((addOutstanding r list).map fun o => o.seq).Nodup := by
  obtain ⟨kept, heq, hs, hne⟩ := addOutstanding_spec r list
  rw [heq, List.map_append, List.nodup_append]
  refine ⟨h.sublist (hs.map _), by simp, ?_⟩
  intro a ha b hb
  obtain ⟨o, ho, rfl⟩ := List.mem_map.mp ha
  rw [List.map_singleton, List.mem_singleton] at hb
  exact hb ▸ hne o ho

/-- A record that leaves an outstanding list leaves its sequences distinct (R143). -/
theorem erase_distinct (r : Outstanding) {list : List Outstanding} (h : (list.map fun o => o.seq).Nodup) :
    ((list.erase r).map fun o => o.seq).Nodup := h.sublist (List.erase_sublist.map _)

/-- An evaluation never gives UNKNOWN (R147). -/
theorem evaluateRing_ne_unknown (ages : Pair Nat) : evaluateRing ages ≠ .unknown := by
  unfold evaluateRing
  split <;> simp

/-- The ring state is CLOSED exactly when both directions are returning (R147). -/
theorem evaluateRing_closed {ages : Pair Nat} : evaluateRing ages = .closed ↔ ∀ y : Line, ages.get y ≤ 2 := by
  unfold evaluateRing returning
  rcases ages with ⟨a, b⟩
  constructor
  · intro h y
    by_cases ha : a ≤ 2 <;> by_cases hb : b ≤ 2 <;> simp [ha, hb] at h
    cases y <;> assumption
  · intro h
    have ha : a ≤ 2 := h .a
    have hb : b ≤ 2 := h .b
    simp [ha, hb]

theorem ageReturn_le (age : Nat) : ageReturn age ≤ 3 := by
  unfold ageReturn
  omega

theorem RingUnit.emission_legal {valid : Bool} {r : RingUnit} (h : RingLegal valid r) : RingLegal valid r.emission := by
  refine ⟨h.timer, by simp [RingUnit.emission], ?_, h.outstanding, h.distinct, h.ages, h.nodes, h.rosterSize,
    h.rosterOrdered, h.rosterParts, h.rosterHops⟩
  have ht := h.tally
  have hu := h.unknown
  unfold RingUnit.emission
  dsimp only
  by_cases hc : 2 ≤ r.tally
  · rw [if_pos hc]
    constructor
    · intro he
      exact absurd he (evaluateRing_ne_unknown _)
    · intro hl
      omega
  · rw [if_neg hc, hu]
    omega

theorem RingUnit.matched_legal {valid : Bool} {r : RingUnit} (h : RingLegal valid r) (y : Line) (rec : Outstanding)
    {budget lap : Byte} (hb : ownBodyFits budget lap = true) (now : Time) :
    RingLegal valid (RingUnit.matched y rec budget lap now r) := by
  unfold ownBodyFits at hb
  have hb := of_decide_eq_true hb
  refine ⟨h.timer, h.tally, h.unknown, ?_, ?_, ?_, ?_, h.rosterSize, h.rosterOrdered, h.rosterParts, h.rosterHops⟩
  · intro z
    simp only [RingUnit.matched, Pair.get_set]
    split
    · exact le_trans List.length_erase_le (h.outstanding y)
    · exact h.outstanding z
  · intro z
    simp only [RingUnit.matched, Pair.get_set]
    split
    · exact erase_distinct rec (h.distinct y)
    · exact h.distinct z
  · intro z
    simp only [RingUnit.matched, Pair.get_set]
    split
    · omega
    · exact h.ages z
  · intro z d hd
    simp only [RingUnit.matched, Pair.get_set] at hd
    split at hd
    · cases hd
      dsimp only
      omega
    · exact h.nodes z d hd

/-- The bays of a roster after a record is placed. -/
theorem mem_insertRecord {r x : RosterRecord} {roster : List RosterRecord} :
    x ∈ insertRecord r roster ↔ x = r ∨ x ∈ roster := List.mem_orderedInsert ..

theorem insertRecord_ordered {r : RosterRecord} {roster : List RosterRecord} (hn : ∀ x ∈ roster, x.bay ≠ r.bay)
    (ho : roster.Pairwise fun x y => x.bay.toNat < y.bay.toNat) :
    (insertRecord r roster).Pairwise fun x y => x.bay.toNat < y.bay.toNat := by
  unfold insertRecord
  induction roster with
  | nil => simp
  | cons x rest ih =>
    rw [List.pairwise_cons] at ho
    have hx : x.bay.toNat ≠ r.bay.toNat := fun h => hn x (by simp) (BitVec.eq_of_toNat_eq h)
    rw [List.orderedInsert_cons]
    split
    · refine List.pairwise_cons.mpr ⟨?_, List.pairwise_cons.mpr ho⟩
      intro y hy
      rcases List.mem_cons.mp hy with rfl | hy
      · omega
      · have := ho.1 y hy
        omega
    · refine List.pairwise_cons.mpr ⟨?_, ih (fun y hy => hn y (by simp [hy])) ho.2⟩
      intro y hy
      rcases (List.mem_orderedInsert ..).mp hy with rfl | hy
      · omega
      · exact ho.1 y hy

/-- A checked beacon gives a part whose hop distance is at most 63 (R149, R150). -/
theorem rosterPart_hops {f : RingFrame} {budget interval state : Byte} {now : Time} {part : RosterPart}
    (h : rosterPart f budget interval state now = some part) : part.hops ≤ 63 := by
  unfold rosterPart at h
  split at h
  · split at h
    · rename_i hc
      cases h
      dsimp only
      omega
    · cases h
  · cases h

theorem RingUnit.enter_legal {valid : Bool} {r : RingUnit} (h : RingLegal valid r) (bay : Byte) (x : Line)
    {part : RosterPart} (hp : part.hops ≤ 63) : RingLegal valid (RingUnit.enter bay x part r) := by
  unfold RingUnit.enter
  split
  · exact ⟨h.timer, h.tally, h.unknown, h.outstanding, h.distinct, h.ages, h.nodes, h.rosterSize,
      h.rosterOrdered, h.rosterParts, h.rosterHops⟩
  · rename_i hfull
    unfold setPart
    have hops : ∀ (parts : Pair (Option RosterPart)), (∀ z : Line, ∀ p ∈ parts.get z, p.hops ≤ 63) →
        ∀ z : Line, ∀ p ∈ (parts.set x (some part)).get z, p.hops ≤ 63 := by
      intro parts hall z p hm
      rw [Pair.get_set] at hm
      split at hm
      · cases hm
        exact hp
      · exact hall z p hm
    by_cases hin : (r.roster.any fun rec => rec.bay == bay) = true
    · simp only [hin, if_true]
      refine ⟨h.timer, h.tally, h.unknown, h.outstanding, h.distinct, h.ages, h.nodes,
        by simpa using h.rosterSize, ?_, ?_, ?_⟩
      · dsimp only
        rw [List.pairwise_map]
        refine h.rosterOrdered.imp ?_
        intro a b hab
        split <;> split <;> exact hab
      · intro rec hr
        simp only [List.mem_map] at hr
        obtain ⟨rec', hr', rfl⟩ := hr
        split
        · cases x <;> simp [Pair.set]
        · exact h.rosterParts rec' hr'
      · intro rec hr
        simp only [List.mem_map] at hr
        obtain ⟨rec', hr', rfl⟩ := hr
        split
        · exact hops _ (h.rosterHops rec' hr')
        · exact h.rosterHops rec' hr'
    · simp only [Bool.not_eq_true] at hin
      have hlen : r.roster.length < 63 := by
        by_contra hl
        exact hfull ⟨hin, by simp only [Config.rosterCapacity]; omega⟩
      have hnew : ∀ rec ∈ r.roster, rec.bay ≠ bay := by
        intro rec hr hb
        have := List.any_eq_false.mp hin rec hr
        simp [hb] at this
      simp only [hin, Bool.false_eq_true, if_false]
      refine ⟨h.timer, h.tally, h.unknown, h.outstanding, h.distinct, h.ages, h.nodes, ?_,
        insertRecord_ordered hnew h.rosterOrdered, ?_, ?_⟩
      · dsimp only
        unfold insertRecord
        rw [List.orderedInsert_length]
        omega
      · intro rec hr
        rcases mem_insertRecord.mp hr with rfl | hr
        · cases x <;> simp [Pair.set]
        · exact h.rosterParts rec hr
      · intro rec hr
        rcases mem_insertRecord.mp hr with rfl | hr
        · exact hops ⟨none, none⟩ (by intro z p hz; cases z <;> cases hz)
        · exact h.rosterHops rec hr

theorem removePart_legal {valid : Bool} {r : RingUnit} (h : RingLegal valid r) (bay : Byte) (x : Line) :
    RingLegal valid { r with roster := removePart bay x r.roster } := by
  refine ⟨h.timer, h.tally, h.unknown, h.outstanding, h.distinct, h.ages, h.nodes,
    le_trans (List.length_filterMap_le ..) h.rosterSize, ?_, ?_, ?_⟩
  · dsimp only
    unfold removePart
    rw [List.pairwise_filterMap]
    refine h.rosterOrdered.imp ?_
    intro a b hab a' ha' b' hb'
    have ha : a'.bay = a.bay := by
      split at ha' <;> (try split at ha') <;> cases ha' <;> rfl
    have hb : b'.bay = b.bay := by
      split at hb' <;> (try split at hb') <;> cases hb' <;> rfl
    rw [ha, hb]
    exact hab
  · intro rec hr
    simp only [removePart, List.mem_filterMap] at hr
    obtain ⟨rec', hr', he⟩ := hr
    split at he
    · split at he
      · rename_i ho
        cases he
        cases x <;> simp_all [Pair.set, Pair.get, Line.other]
      · cases he
    · cases he
      exact h.rosterParts _ hr'
  · intro rec hr
    simp only [removePart, List.mem_filterMap] at hr
    obtain ⟨rec', hr', he⟩ := hr
    split at he
    · split at he
      · cases he
        intro z p hp
        rw [Pair.get_set] at hp
        split at hp
        · cases hp
        · exact h.rosterHops rec' hr' z p hp
      · cases he
    · cases he
      exact h.rosterHops _ hr'

end Sys2Proof.Machine
end

