-- ==== Sys2Proof/Laws/Windows.lean ====
section
/-! SUPPORT. Laws of the duplicate window and of the records of a supervised entry: distances (R6), what each verdict
leaves (R44 to R50), and that arrivals, expiries, tightening and evaluations keep legal records legal (R40, R42, R63,
R64, R76, R79, R80). -/

namespace Sys2Proof.Machine

/-! ### Distances (R6) -/

/-- The forward distance in numbers. -/
theorem seqDistance_eq (x y : SeqNo) : seqDistance x y = (y.toNat + 65536 - x.toNat) % 65536 := by
  unfold seqDistance
  rw [BitVec.toNat_sub]
  congr 1
  have := x.isLt
  omega

theorem seqDistance_lt (x y : SeqNo) : seqDistance x y < 65536 := (y - x).isLt

@[simp] theorem seqDistance_self (x : SeqNo) : seqDistance x x = 0 := by simp [seqDistance]

/-- Two numbers as far behind a third are the same number. -/
theorem seqDistance_inj {x y s : SeqNo} (h : seqDistance x s = seqDistance y s) : x = y := by
  rw [seqDistance_eq, seqDistance_eq] at h
  have := x.isLt
  have := y.isLt
  have := s.isLt
  apply BitVec.eq_of_toNat_eq
  omega

/-- Distance 0 is equality. -/
theorem seqDistance_zero {x y : SeqNo} : seqDistance x y = 0 ↔ x = y := by
  constructor
  · intro h
    exact seqDistance_inj (s := y) (by simp [h])
  · rintro rfl
    simp

/-- A number behind a front that moves ahead. -/
theorem seqDistance_add {n front s : SeqNo} (h : seqDistance n front + seqDistance front s < 65536) :
    seqDistance n s = seqDistance n front + seqDistance front s := by
  rw [seqDistance_eq, seqDistance_eq] at *
  rw [seqDistance_eq]
  have := n.isLt
  have := front.isLt
  have := s.isLt
  omega

/-- The number `k` behind `s` is `k` behind it. -/
theorem seqDistance_sub (s : SeqNo) {k : Nat} (hk : k < 65536) : seqDistance (s - BitVec.ofNat 16 k) s = k := by
  unfold seqDistance
  have : s - (s - BitVec.ofNat 16 k) = BitVec.ofNat 16 k := by
    apply BitVec.eq_of_toNat_eq
    simp only [BitVec.toNat_sub, BitVec.toNat_ofNat]
    have := s.isLt
    omega
  rw [this, BitVec.toNat_ofNat, Nat.mod_eq_of_lt (by omega)]

/-! ### The missing list (R40, R46) -/

/-- Distinct numbers that lie 1 to 31 behind a front are at most 31. -/
theorem missing_length {front : SeqNo} {missing : List SeqNo} (hn : missing.Nodup)
    (hb : ∀ n ∈ missing, 1 ≤ seqDistance n front ∧ seqDistance n front ≤ 31) : missing.length ≤ 31 := by
  have hd : (missing.map fun n => seqDistance n front).Nodup :=
    (List.nodup_map_iff_inj_on hn).mpr fun x _ y _ h => seqDistance_inj h
  have hs : (missing.map fun n => seqDistance n front).toFinset ⊆ Finset.Icc 1 31 := by
    intro k hk
    rw [List.mem_toFinset, List.mem_map] at hk
    obtain ⟨n, hm, rfl⟩ := hk
    exact Finset.mem_Icc.mpr (hb n hm)
  have := Finset.card_le_card hs
  rw [List.toFinset_card_of_nodup hd] at this
  simpa using this

/-- The numbers an ahead verdict adds are those behind it by 1 to the smaller of 31 and d - 1. -/
theorem mem_newMissing {s n : SeqNo} {d : Nat} :
    n ∈ newMissing s d ↔ 1 ≤ seqDistance n s ∧ seqDistance n s ≤ min (d - 1) 31 := by
  unfold newMissing
  rw [List.mem_map]
  constructor
  · rintro ⟨j, hj, rfl⟩
    rw [List.mem_range] at hj
    rw [seqDistance_sub s (by omega)]
    omega
  · rintro ⟨h1, h2⟩
    refine ⟨min (d - 1) 31 - seqDistance n s, by rw [List.mem_range]; omega, ?_⟩
    apply seqDistance_inj (s := s)
    rw [seqDistance_sub s (by omega)]
    omega

theorem newMissing_nodup (s : SeqNo) (d : Nat) : (newMissing s d).Nodup := by
  unfold newMissing
  refine (List.nodup_map_iff_inj_on List.nodup_range).mpr ?_
  intro x hx y hy h
  rw [List.mem_range] at hx hy
  have := congrArg (fun n => seqDistance n s) h
  rw [seqDistance_sub s (by omega), seqDistance_sub s (by omega)] at this
  omega

/-- A verdict keeps a legal window legal (R40). -/
theorem Window.judge_legal {w : Window} (h : WindowLegal w) (s : SeqNo) : WindowLegal (w.judge s).window := by
  unfold Window.judge
  split
  · simp [WindowLegal]
  · rename_i front missing run
    obtain ⟨hn, hl, hr, hb⟩ := h
    dsimp only
    split
    · exact ⟨hn, hl, by omega, hb⟩
    · split
      · rename_i hd0 hd
        have dist : ∀ n ∈ missing, seqDistance n s = seqDistance n front + seqDistance front s := by
          intro n hm
          have := hb n hm
          exact seqDistance_add (by omega)
        have bound : ∀ n ∈ keptMissing s missing ++ newMissing s (seqDistance front s),
            1 ≤ seqDistance n s ∧ seqDistance n s ≤ 31 := by
          intro n hm
          rcases List.mem_append.mp hm with hm | hm
          · unfold keptMissing at hm
            rw [List.mem_filter] at hm
            have h1 := hb n hm.1
            have h2 := dist n hm.1
            have h3 := of_decide_eq_true hm.2
            omega
          · have := mem_newMissing.mp hm
            omega
        have nodup : (keptMissing s missing ++ newMissing s (seqDistance front s)).Nodup := by
          refine List.Nodup.append (hn.filter _) (newMissing_nodup ..) ?_
          intro n hk hw
          unfold keptMissing at hk
          rw [List.mem_filter] at hk
          have h1 := hb n hk.1
          have h2 := dist n hk.1
          have h3 := mem_newMissing.mp hw
          omega
        exact ⟨nodup, missing_length nodup bound, by omega, bound⟩
      · split
        · split
          · exact ⟨hn.erase _, le_trans List.length_erase_le hl, by omega, fun n hm => hb n (List.mem_of_mem_erase hm)⟩
          · exact ⟨hn, hl, by omega, hb⟩
        · split
          · exact ⟨hn, hl, by omega, hb⟩
          · simp [WindowLegal]

/-- Every verdict leaves the window ACTIVE (R42). -/
theorem Window.judge_ne_empty (w : Window) (s : SeqNo) : (w.judge s).window ≠ .empty := by
  unfold Window.judge
  split
  · simp
  · dsimp only
    repeat' split
    all_goals simp

/-- The front after a verdict: the arrival's number where the verdict sets the probe, and otherwise the front before
(R46 to R50, R77). -/
theorem Window.judge_front {front : SeqNo} {missing : List SeqNo} {run : Nat} (s : SeqNo) :
    ∃ missing' run', ((Window.active front missing run).judge s).window =
      .active (match ((Window.active front missing run).judge s).verdict with
        | .activation | .ahead _ | .resync => s
        | .duplicate | .late | .stale => front) missing' run' := by
  unfold Window.judge
  dsimp only
  by_cases h0 : seqDistance front s = 0
  · simp [h0]
  · by_cases h1 : seqDistance front s ≤ 32767
    · simp [h0, h1]
    · by_cases h2 : 65536 - seqDistance front s ≤ 31
      · by_cases h3 : s ∈ missing <;> simp [h0, h1, h2, h3]
      · by_cases h3 : run < 3 <;> simp [h0, h1, h2, h3]

/-! ### Health (R63 to R68) -/

/-- After any arrival the stream is heard: its health is neither WAITING nor LOST (R42, R66). -/
theorem Supervision.hear_health (x : Line) (t : Time) (sup : Supervision) :
    (sup.hear x t).health ≠ .waiting ∧ (sup.hear x t).health ≠ .lost := by
  unfold Supervision.hear
  split <;> simp_all [Supervision.firstArrival, Supervision.restart, Supervision.recover]

@[simp] theorem Supervision.hear_p (x : Line) (t : Time) (sup : Supervision) : (sup.hear x t).p = sup.p := by
  unfold Supervision.hear; split <;> rfl

@[simp] theorem Supervision.hear_m (x : Line) (t : Time) (sup : Supervision) : (sup.hear x t).m = sup.m := by
  unfold Supervision.hear; split <;> rfl

/-- After an arrival on line X that line is live, and each timer runs exactly when its line is live (R64 to R67). -/
theorem Supervision.hear_timers {sup : Supervision} (h : SupervisionLegal sup) (x : Line) (t : Time) :
    (∀ y : Line, ((sup.hear x t).silence.get y).isSome = (sup.hear x t).live.get y)
      ∧ (sup.hear x t).health = healthOf (sup.hear x t).live := by
  have ha := h.timers .a
  have hb := h.timers .b
  have hh := h.heard
  unfold Supervision.hear
  rcases sup with ⟨p, m, window, health, ⟨la, lb⟩, ⟨sa, sb⟩, skew⟩
  simp only [Pair.get] at ha hb
  cases health <;> cases x <;> cases la <;> cases lb <;>
    simp_all [healthOf, Supervision.firstArrival, Supervision.restart, Supervision.recover, Pair.set, Pair.get] <;>
    intro y <;> cases y <;> simp_all

/-! ### Skew (R76 to R80) -/

/-- A sample lies within the clamp (R78). -/
theorem Probe.sample_bounds (pr : Probe) (now : Time) : -16383 ≤ pr.sample now ∧ pr.sample now ≤ 16383 := by
  unfold Probe.sample clampSample
  split <;> omega

/-- A sample within the clamp keeps the accumulator within its range (R79). -/
theorem accumulate_bounds {e8 : Option Int} (h : ∀ e ∈ e8, -131064 ≤ e ∧ e ≤ 131064) {s : Int}
    (hs : -16383 ≤ s ∧ s ≤ 16383) : -131064 ≤ accumulate e8 s ∧ accumulate e8 s ≤ 131064 := by
  unfold accumulate
  split
  · omega
  · have := h _ rfl
    omega

/-- What an arrival can do to the skew record (R77, R78): set the probe, take a sample, or leave it. -/
theorem Skew.arrive_cases (limit : Nat) (v : Verdict) (s : SeqNo) (x : Line) (now : Time) (sk : Skew) :
    ((v = .activation ∨ (∃ g, v = .ahead g) ∨ v = .resync) ∧
      sk.arrive limit v s x now = { sk with probe := some ⟨s, x, now⟩ }) ∨
    (v = .duplicate ∧ ∃ pr, sk.probe = some pr ∧ pr.seq = s ∧ pr.line ≠ x ∧
      sk.arrive limit v s x now =
        { e8 := some (accumulate sk.e8 (pr.sample now)), probe := none,
          alarm := alarmOf limit (some (accumulate sk.e8 (pr.sample now))) }) ∨
    ((v = .duplicate ∨ v = .late ∨ v = .stale) ∧ sk.arrive limit v s x now = sk) := by
  cases v
  case duplicate =>
    rcases hp : sk.probe with _ | pr
    · exact .inr (.inr ⟨.inl rfl, by simp [Skew.arrive, hp]⟩)
    · by_cases hc : pr.seq = s ∧ pr.line ≠ x
      · exact .inr (.inl ⟨rfl, pr, rfl, hc.1, hc.2, by simp [Skew.arrive, hp, hc, Skew.evaluate]⟩)
      · exact .inr (.inr ⟨.inl rfl, by simp only [Skew.arrive, hp]; rw [if_neg hc]⟩)
  case activation => exact .inl ⟨.inl rfl, rfl⟩
  case ahead g => exact .inl ⟨.inr (.inl ⟨g, rfl⟩), rfl⟩
  case resync => exact .inl ⟨.inr (.inr rfl), rfl⟩
  case late => exact .inr (.inr ⟨.inr (.inl rfl), rfl⟩)
  case stale => exact .inr (.inr ⟨.inr (.inr rfl), rfl⟩)

/-- The skew record after an arrival (R76 to R79). -/
theorem Skew.arrive_legal {w : Window} {sk : Skew} (h : SkewLegal w sk) (hw : w = .empty → sk.probe = none)
    (limit : Nat) (s : SeqNo) (x : Line) (now : Time) :
    SkewLegal (w.judge s).window (sk.arrive limit (w.judge s).verdict s x now) := by
  have keep : ∀ v, (w.judge s).verdict = v → (v = .duplicate ∨ v = .late ∨ v = .stale) → ∀ pr ∈ sk.probe,
      ∃ missing run, (w.judge s).window = .active pr.seq missing run := by
    intro v hv hc pr hp
    obtain ⟨missing, run, rfl⟩ := h.front pr hp
    obtain ⟨m', r', hj⟩ := Window.judge_front (front := pr.seq) (missing := missing) (run := run) s
    refine ⟨m', r', hj.trans ?_⟩
    rw [hv]
    rcases hc with rfl | rfl | rfl <;> rfl
  rcases Skew.arrive_cases limit (w.judge s).verdict s x now sk with
    ⟨hv, he⟩ | ⟨-, pr, hp, -, -, he⟩ | ⟨hv, he⟩
  · rw [he]
    refine ⟨h.range, ?_, h.unset⟩
    intro pr hpr
    cases hpr
    rcases w with _ | ⟨front, missing, run⟩
    · exact ⟨_, _, rfl⟩
    · obtain ⟨m', r', hj⟩ := Window.judge_front (front := front) (missing := missing) (run := run) s
      refine ⟨m', r', hj.trans ?_⟩
      rcases hv with hv | ⟨g, hv⟩ | hv <;> rw [hv]
  · rw [he]
    refine ⟨?_, by simp, by simp⟩
    intro e hq
    cases hq
    exact accumulate_bounds h.range (Probe.sample_bounds ..)
  · rw [he]
    exact ⟨h.range, keep _ rfl hv, h.unset⟩

/-- The alarm after an arrival is what an evaluation gives, when it was before (R80). -/
theorem Skew.arrive_alarm {limit : Nat} {sk : Skew} (h : sk.alarm = alarmOf limit sk.e8) (v : Verdict) (s : SeqNo)
    (x : Line) (now : Time) :
    (sk.arrive limit v s x now).alarm = alarmOf limit (sk.arrive limit v s x now).e8 := by
  rcases Skew.arrive_cases limit v s x now sk with ⟨-, he⟩ | ⟨-, pr, -, -, -, he⟩ | ⟨-, he⟩ <;> rw [he]
  · exact h
  · exact h

/-! ### The records of an entry -/

/-- While a stream is WAITING or LOST it has no probe (R76). -/
theorem SupervisionLegal.no_probe {sup : Supervision} (h : SupervisionLegal sup) (hw : sup.window = .empty) :
    sup.skew.probe = none := by
  rcases hp : sup.skew.probe with _ | pr
  · rfl
  · obtain ⟨m, r, he⟩ := h.skew.front pr hp
    rw [hw] at he
    cases he

/-- An arrival keeps legal records legal (R42, R63, R64, R76, R79). -/
theorem Supervision.arrive_legal {sup : Supervision} (h : SupervisionLegal sup) (limit : Nat) (s : SeqNo) (x : Line)
    (now : Time) : SupervisionLegal (sup.arrive limit s x now) := by
  have hh := Supervision.hear_health x now sup
  have ht := Supervision.hear_timers h x now
  refine ⟨?_, ?_, Window.judge_legal h.window s, Skew.arrive_legal h.skew h.no_probe limit s x now, ?_, ht.1, ?_, ?_⟩
  · simpa [Supervision.arrive] using h.period
  · simpa [Supervision.arrive] using h.multiplier
  · constructor
    · intro he
      exact absurd he (Window.judge_ne_empty sup.window s)
    · rintro (he | he)
      · exact absurd he hh.1
      · exact absurd he hh.2
  · exact fun _ => ht.2
  · exact fun he => absurd he hh.1

/-- The expiry of a running timer keeps legal records legal (R42, R63, R64, R68, R69, R81). -/
theorem Supervision.expire_legal {sup : Supervision} (h : SupervisionLegal sup) (x : Line)
    (hx : (sup.silence.get x).isSome = true) : SupervisionLegal (sup.expire x) := by
  have hlive : sup.live.get x = true := by rw [← h.timers x]; exact hx
  have hne : sup.health ≠ .waiting := by
    intro he
    rw [h.unheard he] at hlive
    cases x <;> simp [Pair.get] at hlive
  have hlost : sup.health ≠ .lost := by
    rw [h.heard hne]
    rcases hs : sup.live with ⟨a, b⟩
    rw [hs] at hlive
    cases x <;> cases a <;> cases b <;> simp_all [healthOf, Pair.get]
  have hwin : sup.window ≠ .empty := by
    intro he
    rcases h.agree.mp he with he | he
    · exact hne he
    · exact hlost he
  unfold Supervision.expire
  dsimp only
  split
  · rename_i hl
    refine ⟨h.period, h.multiplier, trivial, ⟨by simp [Skew.unset], by simp [Skew.unset], fun _ => rfl⟩, by simp,
      ?_, fun _ => hl.symm, by simp⟩
    intro y
    rcases hs : sup.live.set x false with ⟨a, b⟩
    rw [hs] at hl
    cases a <;> cases b <;> simp [healthOf] at hl
    cases y <;> rfl
  · rename_i hl
    refine ⟨h.period, h.multiplier, h.window, h.skew, ?_, ?_, fun _ => rfl, ?_⟩
    · constructor
      · intro he
        exact absurd he hwin
      · rintro (he | he)
        · rcases hs : sup.live.set x false with ⟨a, b⟩
          simp only [hs] at he
          cases a <;> cases b <;> simp [healthOf] at he
        · exact absurd he hl
    · intro y
      simp only [Pair.get_set]
      split
      · rfl
      · exact h.timers y
    · intro he
      rcases hs : sup.live.set x false with ⟨a, b⟩
      simp only [hs] at he
      cases a <;> cases b <;> simp [healthOf] at he

/-- Tightening with values in range keeps legal records legal (R30). -/
theorem Supervision.tighten_legal {sup : Supervision} (h : SupervisionLegal sup) {p m : Nat}
    (hp : 50 ≤ p ∧ p ≤ 16777215) (hm : 2 ≤ m ∧ m ≤ 15) : SupervisionLegal (sup.tighten p m) := by
  unfold Supervision.tighten
  split
  · exact ⟨hp, hm, h.window, h.skew, h.agree, h.timers, h.heard, h.unheard⟩
  · exact h

/-- The records a join makes are legal (R18, R28). -/
theorem Supervision.initial_legal {p m : Nat} (hp : 50 ≤ p ∧ p ≤ 16777215) (hm : 2 ≤ m ∧ m ≤ 15) :
    SupervisionLegal (Supervision.initial p m) := by
  refine ⟨hp, hm, trivial, ⟨?_, ?_, fun _ => rfl⟩, ?_, ?_, ?_, ?_⟩ <;>
    simp [Supervision.initial, Skew.unset]
  intro x
  cases x <;> rfl

end Sys2Proof.Machine
end

