-- ==== Sys2Proof/Tests/Slice0.lean ====
section
/-! SUPPORT. Tests of the model, and a witness for every statement that has hypotheses: a concrete state with operands
that meet them together. Expected results are the manual's own examples and tables, or hand calculation from them;
each test names its source. -/

namespace Sys2Proof.Tests

-- Each test waits for the kernel: one at a time keeps the threads few.
set_option Elab.async false

open Sys2Proof Sys2Proof.Machine

/-! ### WellFormed: an ill-formed command for each check -/

theorem test_wellFormed_refuses_silence_index_64 : WellFormed (.silenceTimerExpiry 14 64 .a) = false := by decide
theorem test_wellFormed_accepts_silence_index_63 : WellFormed (.silenceTimerExpiry 14 63 .a) = true := by decide
theorem test_wellFormed_refuses_long_service_list :
    WellFormed (.setup .t0 ⟨none, none, none, some (List.replicate 256 0), none, none, none, none, none, none, none⟩)
      = false := by decide +kernel
theorem test_wellFormed_refuses_empty_tributary_frame : WellFormed (.tributaryFrameReceived .t0 []) = false := by decide
theorem test_wellFormed_refuses_empty_line_frame : WellFormed (.lineFrameReceived .a []) = false := by decide
theorem test_wellFormed_refuses_unknown_that_decodes : WellFormed (.requestUnknown .t0 5 []) = false := by decide
theorem test_wellFormed_refuses_unknown_too_long :
    WellFormed (.requestUnknown .t0 99 (List.replicate 1024 0)) = false := by decide +kernel
theorem test_wellFormed_accepts_unknown_action : WellFormed (.requestUnknown .t0 6 [0, 4]) = true := by decide

/-! ### Small states -/

/-- After reset, with the links of all tributaries UP. -/
def upState : State := { State.reset with ports := Quad.ofFn fun _ => { Port.initial with link := .up } }

/-- With all links UP and one request of T0 waiting, with tag 7. -/
def asked (code : Byte) (fields : List Byte) : State :=
  upState.changePort .t0 fun p => { p with requests := [⟨code, 7, fields⟩] }

/-- A state with a stream table of the given entries. -/
def holding (entries : List Entry) (s : State) : State := { s with table := entries }

/-- A state with both lines LOCKED. -/
def lockedState (s : State) : State :=
  { s with receivers := ⟨⟨.locked, 0, none, some 100000, 0, ⟨0, 0, 0, 0, 0, 0, 0, 0⟩⟩,
      ⟨.locked, 0, none, some 100000, 0, ⟨0, 0, 0, 0, 0, 0, 0, 0⟩⟩⟩ }

/-- A state with line A OFF. -/
def offState (s : State) : State :=
  { s with receivers := { s.receivers with a := ⟨.off, 0, none, none, 0, ⟨0, 0, 0, 0, 0, 0, 0, 0⟩⟩ } }

/-- An own-bay entry published by `h`. -/
def ownEntry (index : Byte) (h : Holder) (st : PublisherState) (members : Members) : Entry :=
  Entry.make ⟨12, index⟩ .urgent (some ⟨h, st, 5⟩) members none

/-- The subscriber set of T0 alone. -/
def onlyT0 : Members := ⟨⟨true, false, false, false⟩, false⟩

/-- A foreign entry with subscriber T0, silent after 500 microseconds. -/
def foreignEntry (h : Health) (live : Pair Bool) (silence : Pair (Option Time)) (w : Window) : Entry :=
  Entry.make ⟨14, 5⟩ .general none onlyT0 (some ⟨250, 2, w, h, live, silence, Skew.unset⟩)

/-- The foreign entry in DUAL, with window front 41008. -/
def dualEntry : Entry := foreignEntry .dual ⟨true, true⟩ ⟨some 700, some 800⟩ (.active 41008 [] 0)

/-- The foreign entry in SINGLE_A. -/
def singleEntry : Entry := foreignEntry .singleA ⟨true, false⟩ ⟨some 700, none⟩ (.active 41008 [] 0)

/-- The state that a command leaves; of no use where the command does not answer a next state. -/
def after (o : Outcome) : State :=
  match o with
  | .next s => s
  | .fault _ => State.reset
  | .refused _ => State.reset

/-- The reply in flight on a tributary. -/
def replyOf (s : State) (t : Trib) : Option (ResultCode × List Byte) :=
  match (s.ports.get t).inFlight with
  | some (.reply y) => some (y.result, y.fields)
  | _ => none

/-! ### The manual's examples -/

/-- The check value of the CRC with this polynomial, start and final inversion (R8). -/
theorem test_check_of_123456789 :
    checkOf [0x31, 0x32, 0x33, 0x34, 0x35, 0x36, 0x37, 0x38, 0x39] = 0xFC891918#32 := by decide +kernel

/-- The boundaries of the forward distance (R6). -/
theorem test_distance_boundaries :
    seqDistance 65535 0 = 1 ∧ seqDistance 0 32767 = 32767 ∧ seqDistance 0 32768 = 32768 ∧ seqDistance 0 65535 = 65535 := by
  decide

/-- An ahead verdict over two numbers, then the late copy of one of them (R46, R48). -/
theorem test_ahead_then_late :
    ((Window.active 10 [] 0).judge 13).window = .active 13 [11, 12] 0
      ∧ ((Window.active 13 [11, 12] 0).judge 11).verdict = .late := by decide

/-- The most one ahead verdict can count lost (R46): 32735 and the 31 listed before it. -/
theorem test_ahead_largest_loss :
    ((Window.active 100 ((List.range 31).map fun k => BitVec.ofNat 16 (69 + k)) 0).judge 32867).lost = 32766 := by
  decide +kernel

/-- The division of R79 rounds toward minus infinity: from -5, floor(-5 / 8) is -1. -/
theorem test_accumulate_rounds_down : accumulate (some (-5)) 0 = -4 ∧ accumulate (some (-16)) 0 = -14 := by decide

/-- The reported skew rounds toward zero (R79). -/
theorem test_reported_skew_rounds_to_zero : reportedSkew (-5) = 0 ∧ reportedSkew 15 = 1 := by decide

/-- A claim of a free index, and the same index claimed by T0 while T1 holds it (R22, cases 4 and 8). -/
theorem test_claim_done : (after (exec (.claim .t0 5 1) (asked 1 [5, 1]))).table
    = [Entry.make ⟨12, 5⟩ .urgent (some ⟨.trib .t0, .active, 0⟩) Members.empty none] := by decide +kernel
theorem test_claim_taken : replyOf (after (exec (.claim .t0 5 1)
    (holding [ownEntry 5 (.trib .t1) .active Members.empty] (asked 1 [5, 1])))) .t0 = some (.taken, []) := by
  decide +kernel

/-- A JOIN with M of 1 is out of range (R26). -/
theorem test_join_range : replyOf (after (exec (.join .t0 14 5 250 1) (asked 3 [14, 5, 0, 0, 250, 1]))) .t0
    = some (.range, []) := by decide +kernel

/-- Level 15 steps to the floor (R106). -/
theorem test_dwell_wraps_to_floor : stepLevel 3 15 = 3 ∧ stepLevel 3 14 = 15 := by decide

/-- The next level at a departure (R108): one above, not below the floor, and the floor from 15. -/
theorem test_next_level : nextLevel 0 15 = 0 ∧ nextLevel 6 2 = 6 ∧ nextLevel 6 9 = 10 := by decide

/-- With U of 2 and all queues waiting, after two urgent frames comes one normal frame (R126, R127). -/
theorem test_arbiter_third_is_normal :
    let f : RingFrame := ⟨.stream .urgent, 12, 1, 3, 9, []⟩
    let e : Egress := { Egress.initial with queues := ⟨[f, f, f], [f], ⟨[], [], [], []⟩, []⟩ }
    let next := fun e : Egress => (e.choose true defaultServiceList 2)
    let done := fun e : Egress => { e with inFlight := none }
    (next (done (next (done (next e))))).inFlight = some (f, .normal .fwd) := by decide +kernel

/-- A record added beside one of its own sequence replaces it, and the others stay (R143, log 17); with four others the
oldest leaves (R143). -/
theorem test_outstanding_distinct :
    addOutstanding ⟨5, 100⟩ [⟨3, 1⟩, ⟨5, 2⟩, ⟨6, 3⟩, ⟨7, 4⟩] = [⟨3, 1⟩, ⟨6, 3⟩, ⟨7, 4⟩, ⟨5, 100⟩]
      ∧ addOutstanding ⟨5, 100⟩ [⟨1, 1⟩, ⟨2, 2⟩, ⟨3, 3⟩, ⟨4, 4⟩] = [⟨2, 2⟩, ⟨3, 3⟩, ⟨4, 4⟩, ⟨5, 100⟩] := by decide

/-- A notice takes 8 bytes, and a DATA record with a gap count 10 and its payload (R14). -/
theorem test_record_lengths :
    (notice .lost ⟨12, 5⟩ .lost).bytes = [2, 12, 5, 0, 0, 4, 0, 0]
      ∧ (⟨.data, ⟨12, 5⟩, 4097, .line .a, false, false, some 1, .supervised .dual, [9]⟩ : DeliveryRecord).bytes
        = [1, 12, 5, 0x10, 1, 0x49, 0, 1, 0, 1, 9] := by decide

/-- Return ages of 2 and 3 give HALF (R147). -/
theorem test_ring_half : evaluateRing ⟨2, 3⟩ = .half ∧ evaluateRing ⟨0, 2⟩ = .closed ∧ evaluateRing ⟨3, 3⟩ = .opened := by
  decide

/-- The third beacon after reset is the first to evaluate the ring state (R147). -/
theorem test_ring_evaluated_at_third :
    ((RingUnit.initial true).emission.emission).state = .unknown
      ∧ ((RingUnit.initial true).emission.emission.emission).state = .opened := by decide

/-- A debounce count of 4 accepts the fourth sample (R155). -/
theorem test_debounce_fourth : (ContactInput.sample 4 true ⟨false, 3⟩) = ⟨true, 0⟩
    ∧ (ContactInput.sample 4 true ⟨false, 2⟩) = ⟨false, 3⟩ := by decide

/-- The step of an idle part just after reset is one microsecond (R7, log 4). -/
theorem test_idle_tick : (after (step State.reset)).timeBase = 1 := by decide +kernel

/-! ### Witnesses: hypotheses that are met -/

theorem witness_StepRunsFrontCommand : ({ State.reset with pending := [.beaconTimerExpiry] } : State).pending
    = .beaconTimerExpiry :: [] := rfl

/-- An idle part with nothing due, with a request to carry out, and with the sample event and a silence timer at their
due readings and one microsecond ahead of the sample's. -/
theorem witness_IdleStep : State.reset.pending = [] ∧ State.reset.ownStep = none
    ∧ (asked 5 []).ownStep = some (.detach .t0) ∧ (asked 5 []).nextRequest = some (.t0, ⟨5, 7, []⟩)
    ∧ 0 ≤ (State.reset.timeBase - 0).toInt ∧ (State.reset.timeBase - 1).toInt < 0
    ∧ ({ State.reset with timeBase := State.reset.mirror.sampleDue }).ownStep = some (.contactSample State.reset.inPins)
    ∧ ({ State.reset with timeBase := State.reset.mirror.sampleDue - 1 }).ownStep = none
    ∧ (holding [singleEntry] { upState with timeBase := 700 }).ownStep = some (.silenceTimerExpiry 14 5 .a) := by
  decide +kernel

theorem witness_SettingsOwners : after (exec (.linkUp .t0) State.reset) = after (exec (.linkUp .t0) State.reset)
    ∧ exec (.linkUp .t0) State.reset = .next (after (exec (.linkUp .t0) State.reset))
    ∧ requestOf (.linkUp .t0) = none ∧ isTimerEvent (.linkUp .t0) = false ∧ isTimerEvent (.detach .t0) = false
    ∧ isTimerEvent (.dwellExpiry .a) = true := ⟨rfl, rfl, rfl, rfl, rfl, rfl⟩

/-- A stream frame and a beacon at the largest index, lap and payload that they may have. -/
theorem witness_RingFrameRoundTrip :
    let f : RingFrame := ⟨.stream .general, 20, 63, 63, 65535, List.replicate 1024 0⟩
    let b : RingFrame := ⟨.beacon, 20, 0, 63, 0, [63, 10, 1]⟩
    f.index.toNat ≤ 63 ∧ f.lap.toNat ≤ 63 ∧ f.payload.length ≤ 1024 ∧ f.kind ≠ .beacon
      ∧ b.payload.length = 3 ∧ b.index = 0 := by decide +kernel

/-- Byte strings of each class of R11, at the boundaries of length, index and lap. -/
theorem witness_LineClasses :
    let good : RingFrame := ⟨.stream .urgent, 20, 63, 63, 9, []⟩
    let bad : RingFrame := ⟨.stream .urgent, 20, 64, 63, 9, []⟩
    classifyLine (List.replicate 1037 0) = .tooLong ∧ classifyLine (List.replicate 11 0) = .checkFailure
      ∧ classifyLine (List.replicate 12 0) = .checkFailure ∧ good.bytes.length = 12
      ∧ classifyLine good.bytes = .good good ∧ classifyLine bad.bytes = .malformed := by decide +kernel

theorem witness_TributaryFrameRoundTrip :
    classifyTrib (publishBytes 63 [1]) = .publish 63 [1] ∧ classifyTrib (publishBytes 64 [1]) = .malformed
      ∧ classifyTrib (requestBytes ⟨5, 7, []⟩) = .request ⟨5, 7, []⟩ := by decide +kernel

/-- Byte strings on each side of the tests of R15: 6 bytes, a wrong check, a length that does not match, a type
of the part's own, PUBLISH with no body and REQUEST with one byte. -/
theorem witness_TributaryFrameClasses :
    let checked := fun bytes : List Byte => bytes ++ checkBytes bytes
    classifyTrib (List.replicate 6 0) = .malformed ∧ classifyTrib (List.replicate 7 0) = .malformed
      ∧ classifyTrib (checked [0x11, 0, 2, 1]) = .malformed ∧ classifyTrib (checked [0x21, 0, 1, 1]) = .malformed
      ∧ classifyTrib (checked [0x11, 0, 0]) = .malformed ∧ classifyTrib (checked [0x11, 0, 1, 1]) = .publish 1 []
      ∧ classifyTrib (checked [0x12, 0, 1, 5]) = .malformed
      ∧ classifyTrib (checked [0x12, 0, 2, 5, 7]) = .request ⟨5, 7, []⟩ := by decide +kernel

/-- Frames with a correct check and a body of 1025 and of 1026 bytes: whatever the bytes, the length field says so. -/
theorem witness_TributaryFrameLong (body : List Byte) (h : body.length = 1025 ∨ body.length = 1026) :
    let bytes := tribFrameBytes 0x11 body
    bytes.length = body.length + 7 ∧ checkHolds bytes = true
      ∧ 256 * (bytes.getD 1 0).toNat + (bytes.getD 2 0).toNat = body.length := by
  refine ⟨by simp [Nat.add_comm], checkHolds_append _, ?_⟩
  simp [tribFrameBytes, beBytes_two]
  omega

/-- A SETUP and a MIRROR with fields of every length, as requests. -/
theorem witness_RequestRoundTrip :
    let f : SetupFields := ⟨some 63, none, some 60000, some [0, 1, 2, 3, 4, 5], none, none, some 15, none, none, none, none⟩
    WellFormed (.setup .t3 f) = true
      ∧ requestOf (.setup .t3 f) = some (.t3, 7, [0, 0x4D, 63, 0xEA, 0x60, 6, 0, 1, 2, 3, 4, 5, 15])
      ∧ decodeRow .t3 7 [0, 0x4D, 63, 0xEA, 0x60, 6, 0, 1, 2, 3, 4, 5, 15] = some (.setup .t3 f)
      ∧ (decodeRow .t1 8 [0, 0x30, 0, 10, 1, 14, 7, 1, 1]).isSome = true := by decide +kernel

/-- The verdicts at the boundaries of R45: 1, 32767, behind by 1, 31, 32 and 32768, with the list and the run. -/
theorem witness_WindowVerdicts :
    seqDistance 100 101 = 1 ∧ seqDistance 100 32867 = 32767 ∧ seqDistance 100 100 = 0
      ∧ seqDistance 100 99 = 65535 ∧ seqDistance 100 69 = 65505 ∧ seqDistance 100 68 = 65504
      ∧ seqDistance 100 32868 = 32768
      ∧ ((Window.active 100 [69] 0).judge 69).verdict = .late ∧ ((Window.active 100 [] 0).judge 69).verdict = .duplicate
      ∧ ((Window.active 100 [] 2).judge 68).verdict = .stale ∧ ((Window.active 100 [] 3).judge 68).verdict = .resync
      ∧ ((Window.active 100 [] 3).judge 32868).verdict = .resync := by decide +kernel

/-- The accumulator at its bound, unset and negative, with samples at the clamp. -/
theorem witness_SkewAccumulator : (-16383 : Int) ≤ 16383 ∧ accumulate none 16383 = 131064
    ∧ accumulate (some 131064) 16383 = 131064 ∧ accumulate (some (-131064)) (-16383) = -131064 := by decide +kernel

/-- A duplicate of the probe's number on the other line, on its own line, and a difference above the clamp. -/
theorem witness_SkewSample :
    let sk : Skew := ⟨none, some ⟨7, .a, 100⟩, false⟩
    (sk.arrive 5 .duplicate 7 .b 110 = ⟨some 80, none, true⟩) ∧ (sk.arrive 5 .duplicate 7 .a 110 = sk)
      ∧ (sk.arrive 0 .duplicate 7 .b 20000 = ⟨some 131064, none, false⟩)
      ∧ (sk.arrive 5 (.ahead 0) 8 .b 110).probe = some ⟨8, .b, 110⟩ := by decide +kernel

/-- Legal records in DUAL, in SINGLE_A and in WAITING. -/
theorem supervision_dual_legal : ∀ sup ∈ dualEntry.sup, SupervisionLegal sup := by
  intro sup h
  cases h
  exact ⟨by decide, by decide, ⟨List.nodup_nil, by decide, by decide, nofun⟩,
    ⟨nofun, nofun, fun _ => rfl⟩, by decide, fun x => (by cases x <;> rfl), by decide,
    by decide⟩

theorem supervision_single_legal : ∀ sup ∈ singleEntry.sup, SupervisionLegal sup := by
  intro sup h
  cases h
  exact ⟨by decide, by decide, ⟨List.nodup_nil, by decide, by decide, nofun⟩,
    ⟨nofun, nofun, fun _ => rfl⟩, by decide, fun x => (by cases x <;> rfl), by decide,
    by decide⟩

theorem supervision_waiting_legal : SupervisionLegal (Supervision.initial 50 2) :=
  ⟨by decide, by decide, trivial, ⟨nofun, nofun, fun _ => rfl⟩, by decide,
    fun x => (by cases x <;> rfl), by decide, by decide⟩

theorem witness_HealthAtArrival : (∃ sup, dualEntry.sup = some sup ∧ SupervisionLegal sup)
    ∧ (∃ sup, singleEntry.sup = some sup ∧ SupervisionLegal sup) ∧ SupervisionLegal (Supervision.initial 50 2) :=
  ⟨⟨_, rfl, supervision_dual_legal _ rfl⟩, ⟨_, rfl, supervision_single_legal _ rfl⟩, supervision_waiting_legal⟩

/-- An expiry with the other line live, and one with it not; a stopped timer, and no entry. -/
theorem witness_SilenceExpiry :
    (holding [dualEntry] upState).find ⟨14, 5⟩ = some dualEntry
      ∧ (dualEntry.sup.map fun x => (x.silence.get .a, x.live.get .b)) = some (some 700, true)
      ∧ (holding [singleEntry] upState).find ⟨14, 5⟩ = some singleEntry
      ∧ (singleEntry.sup.map fun x => (x.silence.get .a, x.live.get .b)) = some (some 700, false)
      ∧ (singleEntry.sup.map fun x => x.silence.get .b) = some none ∧ upState.find ⟨14, 5⟩ = none := by decide +kernel

/-- A delivery record for the port tests. -/
def someRecord (kind : RecordKind) : DeliveryRecord :=
  ⟨kind, ⟨14, 5⟩, 9, .line .a, false, false, none, .supervised .dual, []⟩

/-- An UP port with a REPORT in flight and queues of the given records. -/
def busyPort (urgentQ normalQ : List DeliveryRecord) : Port :=
  { Port.initial with link := .up, inFlight := some (.report 1), reports := 1, urgentQ := urgentQ, normalQ := normalQ }

theorem busyPort_legal (u n : List DeliveryRecord) (hu : u.length ≤ 8) (hn : n.length ≤ 32) :
    PortLegal (busyPort u n) :=
  ⟨⟨hu, hn, Nat.zero_le _⟩, nofun, nofun, nofun, fun _ => rfl⟩

theorem initialPort_legal : PortLegal Port.initial :=
  ⟨⟨by decide, by decide, by decide⟩, fun _ => ⟨rfl, rfl, rfl, rfl, rfl, rfl, rfl⟩, nofun, nofun, nofun⟩

/-- An UP port with one request waiting. -/
theorem askedPort_legal (rs : List Request) (h : rs.length ≤ 2) :
    PortLegal ({ Port.initial with link := .up, requests := rs } : Port) :=
  ⟨⟨Nat.zero_le _, Nat.zero_le _, h⟩, nofun, fun _ => ⟨rfl, rfl, rfl, rfl⟩, nofun, fun _ => rfl⟩

theorem idlePort_legal : PortLegal { Port.initial with link := .up } := askedPort_legal [] (Nat.zero_le _)

/-- Each source of the transmitter in turn the first that holds something. -/
theorem witness_TransmitterChoice :
    let r := someRecord .data
    let idle : Port := { Port.initial with link := .up, report := true, reports := 1, normalQ := [r] }
    let p : Port := { idle with urgentQ := [r], reply := some ⟨1, 7, .done, []⟩ }
    p.link = .up ∧ p.inFlight = none ∧ p.choose.inFlight = some (.delivery r)
      ∧ ({ p with urgentQ := [] } : Port).choose.inFlight = some (.reply ⟨1, 7, .done, []⟩)
      ∧ ({ p with urgentQ := [], reply := none } : Port).choose.inFlight = some (.report 1)
      ∧ ({ p with urgentQ := [], reply := none, report := false } : Port).choose.inFlight = some (.delivery r) := by
  decide +kernel

/-- Legal ports: DOWN, idle, with 7 and 8 urgent and with 22, 23, 31 and 32 normal records, with and without DATA. -/
theorem witness_DeliveryPlacement :
    let u := fun n : Nat => busyPort (List.replicate n (someRecord .data)) []
    let v := fun n : Nat => busyPort [] (List.replicate n (someRecord .lost))
    PortLegal Port.initial ∧ PortLegal { Port.initial with link := .up } ∧ PortLegal (u 7) ∧ PortLegal (u 8)
      ∧ PortLegal (v 22) ∧ PortLegal (v 23) ∧ PortLegal (v 31) ∧ PortLegal (v 32)
      ∧ PortLegal (busyPort [] (List.replicate 31 (someRecord .lost) ++ [someRecord .data])) :=
  ⟨initialPort_legal, idlePort_legal, busyPort_legal _ _ (by decide) (by decide), busyPort_legal _ _ (by decide) (by decide),
    busyPort_legal _ _ (by decide) (by decide), busyPort_legal _ _ (by decide) (by decide),
    busyPort_legal _ _ (by decide) (by decide), busyPort_legal _ _ (by decide) (by decide),
    busyPort_legal _ _ (by decide) (by decide)⟩

/-- Legal ports where a kind is new: idle and busy; and one where it is pending. -/
theorem witness_ReportRaising : PortLegal { Port.initial with link := .up } ∧ PortLegal (busyPort [] [])
    ∧ (busyPort [] []).reports.has .health = true ∧ (busyPort [] []).reports.has .bayClash = false
    ∧ (busyPort [] []).alert = true ∧ Port.initial.alert = false ∧ upState.alert .t0 = false :=
  ⟨idlePort_legal, busyPort_legal _ _ (by decide) (by decide), by decide, by decide, by decide, by decide, by decide⟩

theorem witness_LinkUp : PortLegal (State.reset.ports.get .t2) ∧ (State.reset.ports.get .t2).link = .down
    ∧ (upState.ports.get .t2).link = .up := ⟨initialPort_legal, rfl, rfl⟩

/-- A link to lose with a claim-hold time, and one without. -/
theorem witness_LinkDown : (upState.ports.get .t1).link = .up ∧ upState.profile.claimHold ≠ 0
    ∧ ({ upState with profile := { upState.profile with claimHold := 0 } } : State).profile.claimHold = 0
    ∧ TableOrdered (holding [ownEntry 5 (.trib .t1) .active onlyT0, dualEntry] upState) := by
  refine ⟨rfl, by decide, rfl, by decide⟩

theorem witness_ClaimHoldExpiry :
    let s := (holding [ownEntry 5 (.trib .t1) .held onlyT0, dualEntry] State.reset).changePort .t1
      fun p => { p with holdTimer := some 2000000 }
    TableOrdered s ∧ (s.ports.get .t1).holdTimer = some 2000000 ∧ (s.ports.get .t0).holdTimer = none := by
  refine ⟨by decide, rfl, rfl⟩

theorem witness_TributaryEnd :
    let s := upState.changePort .t0 fun p => { p with inFlight := some (.delivery (someRecord .data)) }
    let u := upState.changePort .t0 fun p => { p with inFlight := some (.report 1) }
    (s.ports.get .t0).inFlight = some (.delivery (someRecord .data)) ∧ (u.ports.get .t0).inFlight = some (.report 1)
      ∧ (upState.ports.get .t0).inFlight = none := ⟨rfl, rfl, rfl⟩

/-- A malformed frame, a request with 1 and with 2 waiting, and PUBLISH frames refused for each reason. -/
theorem witness_TributaryFrame :
    classifyTrib [1, 2, 3] = .malformed ∧ classifyTrib (requestBytes ⟨5, 7, []⟩) = .request ⟨5, 7, []⟩
      ∧ ((asked 5 []).ports.get .t0).requests.length = 1
      ∧ classifyTrib (publishBytes 0 [9]) = .publish 0 [9] ∧ classifyTrib (publishBytes 5 [9]) = .publish 5 [9]
      ∧ upState.find (upState.ownId 5) = none
      ∧ (holding [ownEntry 5 (.trib .t1) .active onlyT0] upState).find ⟨12, 5⟩
        = some (ownEntry 5 (.trib .t1) .active onlyT0) := by decide +kernel

theorem witness_PublishStamped :
    let e := ownEntry 63 (.trib .t1) .active onlyT0
    classifyTrib (publishBytes 63 [9]) = .publish 63 [9] ∧ ((holding [e] upState).ports.get .t1).link = .up
      ∧ (holding [e] upState).find ((holding [e] upState).ownId 63) = some e
      ∧ e.publisher = some ⟨.trib .t1, .active, 5⟩ := by decide +kernel

/-- A request next, with the pointer before, at and after its tributary; and none. -/
theorem witness_RequestRotation :
    (asked 5 []).nextRequest = some (.t0, ⟨5, 7, []⟩)
      ∧ ({ asked 5 [] with pointer := .t1 } : State).nextRequest = some (.t0, ⟨5, 7, []⟩)
      ∧ ({ asked 5 [] with pointer := .t3 } : State).nextRequest = some (.t0, ⟨5, 7, []⟩)
      ∧ upState.nextRequest = none ∧ upState.serving .t0 (.detach .t0) = none
      ∧ requestOf (.detach .t0) = some (.t0, 5, []) := by decide +kernel

/-- CLAIM at the boundaries of the index, for a granted one, and against each kind of publisher. -/
theorem witness_ClaimCases :
    (asked 1 [0, 1]).serving .t0 (.claim .t0 0 1) = some ⟨1, 7, [0, 1]⟩
      ∧ (asked 1 [64, 3]).serving .t0 (.claim .t0 64 3) = some ⟨1, 7, [64, 3]⟩
      ∧ (asked 1 [63, 3]).serving .t0 (.claim .t0 63 3) = some ⟨1, 7, [63, 3]⟩
      ∧ findEntry ⟨12, 63⟩ (asked 1 [63, 3]).table = none ∧ (3 : Byte) = StreamClass.general.code
      ∧ (findEntry ⟨12, 1⟩ [ownEntry 1 (.trib .t1) .held Members.empty]).isSome = true
      ∧ (ownEntry 1 (.trib .t1) .held Members.empty).members.tribs.get .t0 = false
      ∧ onlyT0.tribs.get .t0 = true := by decide +kernel

theorem witness_ReleaseCases :
    let s := holding [ownEntry 63 (.trib .t0) .active onlyT0] (asked 2 [63])
    s.serving .t0 (.release .t0 63) = some ⟨2, 7, [63]⟩ ∧ TableOrdered s
      ∧ findEntry ⟨12, 63⟩ s.table = some (ownEntry 63 (.trib .t0) .active onlyT0)
      ∧ (asked 2 [0]).serving .t0 (.release .t0 0) = some ⟨2, 7, [0]⟩ ∧ TableOrdered (asked 2 [0]) := by
  refine ⟨by decide +kernel, by decide, by decide, by decide +kernel, by decide⟩

/-- JOIN at the boundaries of P and M, with and without an entry. -/
theorem witness_JoinCases :
    (asked 3 [14, 63, 0, 0, 50, 15]).serving .t0 (.join .t0 14 63 50 15) = some ⟨3, 7, [14, 63, 0, 0, 50, 15]⟩
      ∧ (asked 3 [14, 5, 0, 0, 49, 2]).serving .t0 (.join .t0 14 5 49 2) = some ⟨3, 7, [14, 5, 0, 0, 49, 2]⟩
      ∧ (asked 3 [255, 5, 0, 0, 50, 2]).serving .t0 (.join .t0 255 5 50 2) = some ⟨3, 7, [255, 5, 0, 0, 50, 2]⟩
      ∧ findEntry ⟨14, 63⟩ (asked 3 [14, 63, 0, 0, 50, 15]).table = none
      ∧ findEntry ⟨14, 5⟩ (holding [dualEntry] (asked 3 [14, 5, 0, 0, 50, 2])).table = some dualEntry := by
  decide +kernel

theorem witness_LeaveCases :
    let s := holding [dualEntry] (asked 4 [14, 5])
    s.serving .t0 (.leave .t0 14 5) = some ⟨4, 7, [14, 5]⟩ ∧ TableOrdered s
      ∧ findEntry ⟨14, 5⟩ s.table = some dualEntry ∧ dualEntry.members.tribs.get .t0 = true
      ∧ (asked 4 [14, 64]).serving .t0 (.leave .t0 14 64) = some ⟨4, 7, [14, 64]⟩ := by
  refine ⟨by decide +kernel, by decide, by decide, by decide, by decide +kernel⟩

theorem witness_DetachTeardown :
    let s := holding [ownEntry 5 (.trib .t0) .active Members.empty, dualEntry] (asked 5 [])
    s.serving .t0 (.detach .t0) = some ⟨5, 7, []⟩ ∧ TableOrdered s := by
  refine ⟨by decide +kernel, by decide⟩

/-- The LINE requests, on a line that is A, B or neither, OFF, SEARCH and LOCKED. -/
theorem witness_LineRequests :
    (asked 6 [0, 1]).serving .t0 (.lineEnable .t0 0) = some ⟨6, 7, [0, 1]⟩
      ∧ (asked 6 [2, 1]).serving .t0 (.lineEnable .t0 2) = some ⟨6, 7, [2, 1]⟩
      ∧ (lockedState (asked 6 [1, 2])).serving .t0 (.lineDisable .t0 1) = some ⟨6, 7, [1, 2]⟩
      ∧ (lockedState (asked 6 [0, 3])).serving .t0 (.lineRestart .t0 0) = some ⟨6, 7, [0, 3]⟩
      ∧ (lockedState (asked 6 [0, 3])).receivers.a.state = .locked ∧ (asked 6 [0, 1]).receivers.a.state = .search
      ∧ (offState (asked 6 [0, 1])).serving .t0 (.lineEnable .t0 0) = some ⟨6, 7, [0, 1]⟩
      ∧ (offState (asked 6 [0, 2])).serving .t0 (.lineDisable .t0 0) = some ⟨6, 7, [0, 2]⟩
      ∧ (offState (asked 6 [0, 3])).serving .t0 (.lineRestart .t0 0) = some ⟨6, 7, [0, 3]⟩
      ∧ (offState (asked 6 [0, 1])).receivers.a.state = .off ∧ (offState (asked 6 [0, 1])).ownBay = 12
      ∧ (1 : Byte) = lineCode .b := by decide +kernel

/-- A SETUP and a MIRROR out of range, and a MIRROR for which the table has no slot. -/
theorem witness_SettingsRefused :
    (asked 7 [0, 1, 64]).serving .t0 (.setup .t0 ⟨some 64, none, none, none, none, none, none, none, none, none, none⟩)
        = some ⟨7, 7, [0, 1, 64]⟩
      ∧ setupInRange ⟨some 64, none, none, none, none, none, none, none, none, none, none⟩ = false
      ∧ (asked 8 [0, 8, 17]).serving .t0
          (.mirror .t0 ⟨none, none, none, some 17, none, Oct.ofFn fun _ => none⟩) = some ⟨8, 7, [0, 8, 17]⟩
      ∧ mirrorInRange 12 ⟨none, none, none, some 17, none, Oct.ofFn fun _ => none⟩ = false
      ∧ mirrorInRange 12 ⟨some 1, none, none, none, none, Oct.ofFn fun _ => none⟩ = true
      ∧ (List.replicate 64 dualEntry).length + 1 > 64 := by decide +kernel

theorem witness_SetupApplied :
    (asked 7 [0, 1, 63]).serving .t0 (.setup .t0 ⟨some 63, none, none, none, none, none, none, none, none, none, none⟩)
        = some ⟨7, 7, [0, 1, 63]⟩
      ∧ setupInRange ⟨some 63, none, none, none, none, none, none, none, none, none, none⟩ = true := by decide +kernel

/-- The profile with every link UP, each field at its reset value. -/
theorem up_profile_legal : ProfileLegal upState.profile where
  lapBudget := by decide
  beaconInterval := by decide
  claimHold := by decide
  serviceList := by decide
  named := fun q => by
    rcases q with _ | t | _
    · decide
    · cases t <;> decide
    · decide
  urgentBurst := by decide
  floors := fun l => by cases l <;> decide
  dwell := by decide
  qualityPeriod := by decide
  qualityThreshold := by decide
  skewLimit := by decide

theorem up_receivers_legal : ReceiversLegal upState :=
  ⟨fun l => by cases l <;> exact ⟨by decide, fun _ => by decide, by decide, by decide, fun _ => rfl, by decide⟩, nofun⟩

theorem all_empty (q : QueueName) : (noFrames.get q).length ≤ q.capacity := by
  rcases q with _ | (_ | t | _)
  · decide
  · decide
  · cases t <;> decide
  · decide

theorem up_egresses_legal : EgressesLegal upState := fun l => by
  cases l <;> exact ⟨all_empty, fun _ => rfl, fun _ => rfl, by decide, by decide⟩

theorem up_ring_legal : RingLegal upState.bayValid upState.ring where
  timer := rfl
  tally := by decide
  unknown := by decide
  outstanding := fun y => by cases y <;> decide
  distinct := fun y => by cases y <;> decide
  ages := fun y => by cases y <;> decide
  nodes := fun y _ h => by cases y <;> cases h
  rosterSize := by decide
  rosterOrdered := List.Pairwise.nil
  rosterParts := nofun
  rosterHops := nofun

theorem up_mirror_legal : MirrorLegal upState.mirror where
  debounce := by decide
  refresh := by decide
  runs := by decide
  timer := rfl
  changed := by decide
  unboundLow := by decide

theorem up_unbound (i : Fin 8) : (upState.mirror.outputs.get i).binding = none := by revert i; decide

/-- That state with ports in place of its own. -/
def upWith (ports : Quad Port) : State := { upState with ports := ports }

theorem upWith_table (ports : Quad Port) : TableLegal (upWith ports) where
  size := Nat.zero_le _
  ordered := List.Pairwise.nil
  entries := fun e h => absurd h (List.not_mem_nil (a := e))
  contact := ⟨nofun, nofun⟩
  bindings := fun i b h => by
    rw [show (upWith ports).mirror = upState.mirror from rfl, up_unbound] at h
    cases h

theorem upWith_linked (ports : Quad Port) : MirrorLinked (upWith ports) where
  members := fun e h => absurd h (List.not_mem_nil (a := e))
  joined := fun b h => absurd h (List.not_mem_nil (a := b))
  sources := fun b => ⟨nofun, fun h => absurd h (List.not_mem_nil (a := b))⟩
  ordered := List.Pairwise.nil
  health := fun r h => absurd h (List.not_mem_nil (a := r))
  noData := fun r h => absurd h (List.not_mem_nil (a := r))

theorem upWith_safe (ports : Quad Port) : SafeLevels (upWith ports) := fun i b h => by
  rw [show (upWith ports).mirror = upState.mirror from rfl, up_unbound] at h
  cases h

/-- With legal ports, it is legal. -/
theorem upWith_legal (ports : Quad Port) (h : ∀ t, PortLegal (ports.get t)) : Legal (upWith ports) where
  profile := up_profile_legal
  ports := h
  receivers := ⟨up_receivers_legal.1, nofun⟩
  egresses := up_egresses_legal
  table := upWith_table ports
  supervisions := fun e h => absurd h (List.not_mem_nil (a := e))
  alarms := fun e h => absurd h (List.not_mem_nil (a := e))
  ring := up_ring_legal
  mirror := up_mirror_legal
  linked := upWith_linked ports
  safe := upWith_safe ports

/-- A state with one request waiting is legal. -/
theorem asked_legal (code : Byte) (fields : List Byte) : Legal (asked code fields) :=
  upWith_legal _ fun t => by
    cases t
    · exact askedPort_legal [⟨code, 7, fields⟩] (Nat.le_succ 1)
    all_goals exact idlePort_legal

/-- A MIRROR that binds output 0 to input 7 of bay 14 and turns publishing on, in a legal state. -/
theorem witness_MirrorApplied :
    let f : MirrorFields := ⟨some 1, none, none, none, none, ⟨some (some ⟨14, 7, 1, 1⟩), none, none, none, none, none, none, none⟩⟩
    let s := asked 8 [0, 0x21, 1, 1, 14, 7, 1, 1]
    s.serving .t0 (.mirror .t0 f) = some ⟨8, 7, [0, 0x21, 1, 1, 14, 7, 1, 1]⟩ ∧ Legal s
      ∧ mirrorInRange s.ownBay f = true
      ∧ slotsNeeded (boundBays s.mirror.outputs) (boundBays (rebound s.ownBay f s.mirror.outputs))
          (publishAfter f s.mirror.publish && !s.mirror.publish) s.table ≤ freeSlots s.table :=
  ⟨by decide +kernel, asked_legal _ _, by decide +kernel, by decide +kernel⟩

theorem witness_ClearReports : (asked 10 [0xFF, 1]).serving .t0 (.clear .t0 0xFF01) = some ⟨10, 7, [0xFF, 1]⟩ := by
  decide +kernel

theorem witness_UnknownRequest : (asked 99 [1]).serving .t0 (.requestUnknown .t0 99 [1]) = some ⟨99, 7, [1]⟩
    ∧ (asked 6 [0, 4]).serving .t0 (.requestUnknown .t0 6 [0, 4]) = some ⟨6, 7, [0, 4]⟩ := by decide +kernel

theorem witness_ReadRequests :
    (asked 9 [1, 14, 63]).serving .t0 (.readStream .t0 14 63) = some ⟨9, 7, [1, 14, 63]⟩
      ∧ (asked 9 [1, 14, 64]).serving .t0 (.readStream .t0 14 64) = some ⟨9, 7, [1, 14, 64]⟩
      ∧ (asked 9 [2, 1]).serving .t0 (.readLine .t0 1) = some ⟨9, 7, [2, 1]⟩
      ∧ (asked 9 [2, 2]).serving .t0 (.readLine .t0 2) = some ⟨9, 7, [2, 2]⟩
      ∧ (asked 9 [3]).serving .t0 (.readRing .t0) = some ⟨9, 7, [3]⟩
      ∧ (asked 9 [4]).serving .t0 (.readTributary .t0) = some ⟨9, 7, [4]⟩
      ∧ (asked 9 [5]).serving .t0 (.readProfile .t0) = some ⟨9, 7, [5]⟩
      ∧ (asked 9 [6]).serving .t0 (.readMirror .t0) = some ⟨9, 7, [6]⟩
      ∧ findEntry ⟨14, 5⟩ (holding [dualEntry] (asked 9 [1, 14, 5])).table = some dualEntry := by decide +kernel

/-- A roster with two bays equally far: the reading is one of them, whichever the pick. -/
theorem witness_RosterReadings :
    let roster : List RosterRecord :=
      [⟨14, ⟨some ⟨2, 0, 30000, .closed⟩, none⟩⟩, ⟨20, ⟨some ⟨2, 0, 30000, .closed⟩, none⟩⟩]
    farthest .a 0 roster = some (2, 14) ∧ farthest .a 1 roster = some (2, 20) ∧ farthest .b 0 roster = none := by
  decide +kernel

theorem witness_LockEvents : (State.reset.receivers.get .a).state = .search
    ∧ ((lockedState upState).receivers.get .b).state = .locked := ⟨rfl, rfl⟩

theorem witness_ReceiverTimers : (State.reset.receivers.get .a).state = .search
    ∧ (State.reset.receivers.get .a).dwellTimer = some 3000 ∧ (State.reset.receivers.get .a).qualityTimer = none
    ∧ ((lockedState upState).receivers.get .b).qualityTimer = some 100000
    ∧ ((lockedState upState).receivers.get .b).dwellTimer = none := by decide +kernel

/-- Frames of each class that is not good; and quality counts one below the threshold of 16 and at it. -/
theorem witness_LineFrameNotGood : (State.reset.receivers.get .a).state ≠ .locked
    ∧ ((lockedState upState).receivers.get .a).state = .locked ∧ classifyLine (List.replicate 1037 0) = .tooLong
    ∧ classifyLine [1] = .checkFailure ∧ classifyLine ([1, 0, 0, 0, 0, 0, 0, 0] ++ checkBytes [1, 0, 0, 0, 0, 0, 0, 0])
      = .malformed ∧ 14 + 1 < (lockedState upState).profile.qualityThreshold
    ∧ (lockedState upState).profile.qualityThreshold ≤ 15 + 1 := by decide +kernel

/-- A frame for the egress tests. -/
def someFrame : RingFrame := ⟨.stream .urgent, 20, 5, 3, 9, [1]⟩

theorem witness_LineEnd : ({ Egress.initial with inFlight := some (someFrame, .urgent) } : Egress).inFlight
    = some (someFrame, .urgent) ∧ (State.reset.egresses.get .a).inFlight = none := ⟨rfl, rfl⟩

/-- Queues below capacity, at capacity, and empty with the transmitter free. -/
theorem witness_EgressOffer :
    (({ Egress.initial with queues := { noFrames with own := List.replicate 4 someFrame } } : Egress).queues.get
        (.normal .own)).length = 4
      ∧ (({ Egress.initial with queues := { noFrames with own := List.replicate 3 someFrame } } : Egress).queues.get
        (.normal .own)).length = 3
      ∧ Egress.initial.queues = noFrames ∧ Egress.initial.inFlight = none
      ∧ QueueName.normal .own ∈ QueueName.urgent :: defaultServiceList.map .normal := by decide +kernel

theorem all_named : ∀ q : NormalQueue, q ∈ defaultServiceList := fun q => by
  rcases q with _ | t | _
  · decide
  · cases t <;> decide
  · decide

theorem witness_ArbiterChoice : Egress.initial.inFlight = none ∧ (∀ q : NormalQueue, q ∈ defaultServiceList)
    ∧ ({ Egress.initial with queues := { noFrames with urgent := [someFrame] } } : Egress).queues.urgent = [someFrame]
    ∧ 0 < Egress.initial.credit
    ∧ (∃ q : NormalQueue, ({ noFrames with own := [someFrame] } : PerQueue (List RingFrame)).get (.normal q) ≠ []) :=
  ⟨rfl, all_named, rfl, by decide, .own, by decide⟩

theorem witness_OwnFrameRemoved :
    let f : RingFrame := ⟨.stream .urgent, 12, 5, 3, 9, []⟩
    ((lockedState upState).receivers.get .a).state = .locked ∧ classifyLine f.bytes = .good f
      ∧ f.origin = (lockedState upState).ownBay := by decide +kernel

/-- Foreign frames with lap 0, 1 and 63, and no entry. -/
theorem witness_ForeignFramePassed :
    let f := fun lap : Byte => (⟨.stream .general, 20, 5, lap, 9, []⟩ : RingFrame)
    classifyLine (f 0).bytes = .good (f 0) ∧ classifyLine (f 1).bytes = .good (f 1)
      ∧ classifyLine (f 63).bytes = .good (f 63) ∧ (f 0).origin ≠ (lockedState upState).ownBay
      ∧ findEntry ⟨20, 5⟩ (lockedState upState).table = none := by decide +kernel

theorem witness_ForeignArrival :
    let f : RingFrame := ⟨.stream .urgent, 14, 5, 3, 41009, [1]⟩
    let s := lockedState (holding [singleEntry] upState)
    (s.receivers.get .b).state = .locked ∧ classifyLine f.bytes = .good f ∧ f.origin ≠ s.ownBay
      ∧ findEntry ⟨14, 5⟩ s.table = some singleEntry ∧ singleEntry.sup.isSome = true := by decide +kernel

/-- An own beacon with an outstanding record, and bodies that fit at the boundary and do not. -/
theorem witness_OwnBeaconReturn :
    let f : RingFrame := ⟨.beacon, 12, 0, 16, 1, [16, 10, 0]⟩
    let g : RingFrame := ⟨.beacon, 12, 0, 17, 1, [16, 10, 0]⟩
    classifyLine f.bytes = .good f ∧ classifyLine g.bytes = .good g ∧ f.lap.toNat ≤ (16 : Byte).toNat
      ∧ ¬ g.lap.toNat ≤ (16 : Byte).toNat
      ∧ ([⟨1, 100⟩, ⟨2, 200⟩] : List Outstanding) = [] ++ ⟨1, 100⟩ :: [⟨2, 200⟩] := by decide +kernel

/-- A foreign beacon that passes the check, one with interval 101, and a full roster. -/
theorem witness_ForeignBeacon :
    let f : RingFrame := ⟨.beacon, 20, 0, 63, 1, [63, 100, 3]⟩
    let g : RingFrame := ⟨.beacon, 20, 0, 0, 1, [63, 101, 3]⟩
    classifyLine f.bytes = .good f ∧ classifyLine g.bytes = .good g ∧ f.origin ≠ (lockedState upState).ownBay
      ∧ (∀ rec ∈ (lockedState upState).ring.roster, rec.bay ≠ f.origin)
      ∧ 63 ≤ (List.replicate 63 (⟨14, ⟨none, none⟩⟩ : RosterRecord)).length := by decide +kernel

theorem witness_BeaconEmission : State.reset.ring.beaconTimer = some 10000
    ∧ (State.powerOn 255 1 0).ring.beaconTimer = none := ⟨rfl, rfl⟩

/-- A legal ring unit with one part in its roster. -/
theorem witness_RosterExpiry :
    let r : RingUnit := { RingUnit.initial true with roster := [⟨20, ⟨some ⟨2, 0, 30000, .closed⟩, none⟩⟩] }
    RingLegal true r ∧ findPart 20 .a r.roster = some ⟨2, 0, 30000, .closed⟩ ∧ findPart 20 .b r.roster = none := by
  refine ⟨⟨rfl, by decide, by decide, fun y => by cases y <;> decide, fun y => by cases y <;> decide,
    fun y => by cases y <;> decide, fun y d h => (by cases y <;> cases h), by decide, by decide, by decide, ?_⟩, by decide, by decide⟩
  intro rec h x part hp
  cases List.mem_singleton.mp h
  cases x
  · cases hp
    decide
  · cases hp

/-- Inputs that agree, that reach the debounce count of 4, and that do not yet. -/
theorem witness_ContactSample :
    (State.reset.mirror.inputs.get 0).accepted = false ∧ State.reset.mirror.debounce ≤ 3 + 1
      ∧ (State.reset.mirror.inputs.get 0).run + 1 < State.reset.mirror.debounce := by decide +kernel

theorem witness_ContactFrame :
    let e := Entry.make ⟨12, 0⟩ .urgent (some ⟨.mirror, .active, 5⟩) Members.empty none
    findEntry ⟨12, 0⟩ (holding [e] upState).table = some e ∧ e.publisher = some ⟨.mirror, .active, 5⟩
      ∧ State.reset.mirror.refreshTimer = none
      ∧ ({ State.reset.mirror with publish := true, refreshTimer := some 100000 } : Mirror).publish = true := by
  decide +kernel

/-- Outputs bound to bay 14 under SAFE and HOLD, and to another bay. -/
theorem witness_ContactOutputs :
    let out : Oct ContactOutput := ⟨⟨some ⟨14, 7, .safe, true⟩, false⟩, ⟨some ⟨14, 0, .hold, true⟩, true⟩,
      ⟨some ⟨20, 0, .safe, true⟩, false⟩, ⟨none, false⟩, ⟨none, false⟩, ⟨none, false⟩, ⟨none, false⟩, ⟨none, false⟩⟩
    let m : Mirror := { Mirror.initial 0 with outputs := out, sources := [⟨14, .dual, none⟩, ⟨20, .dual, none⟩] }
    (m.hearData 14 .duplicate [0x80, 0x80, 0, 0]).outputs.p0.level = true
      ∧ (m.hearData 14 .duplicate [0x80, 0x80, 0, 0]).outputs.p1.level = true
      ∧ (m.hearLost 14).outputs.p0.level = true ∧ (m.hearLost 14).outputs.p2.level = false
      ∧ ([1, 2, 3] : List Byte).length < 4 := by decide +kernel

/-- The invariants hold of a state with a request waiting, whose next step is that request. -/
theorem witness_PortsKept : PortsLegal (asked 5 []) ∧ (∃ u, step (asked 5 []) = .next u) :=
  ⟨(asked_legal 5 []).ports, after (step (asked 5 [])), rfl⟩

theorem witness_LinesKept : ProfileLegal (asked 5 []).profile ∧ ReceiversLegal (asked 5 []) ∧ EgressesLegal (asked 5 [])
    ∧ (∃ u, step (asked 5 []) = .next u) :=
  ⟨(asked_legal 5 []).profile, (asked_legal 5 []).receivers, (asked_legal 5 []).egresses, after (step (asked 5 [])), rfl⟩

/-- With a supervised entry whose silence timer is due. -/
theorem witness_SupervisionsKept :
    let s := holding [singleEntry] { upState with timeBase := 700 }
    SupervisionsLegal s ∧ AlarmsEvaluated s ∧ MirrorLegal s.mirror ∧ s.ownStep = some (.silenceTimerExpiry 14 5 .a) := by
  refine ⟨?_, ?_, (asked_legal 5 []).mirror, ?_⟩
  · intro e h
    cases List.mem_singleton.mp h
    exact supervision_single_legal
  · intro e h sup hs
    cases List.mem_singleton.mp h
    cases hs
    rfl
  · decide +kernel

theorem witness_RingKept : RingLegal (asked 5 []).bayValid (asked 5 []).ring ∧ (∃ u, step (asked 5 []) = .next u) :=
  ⟨(asked_legal 5 []).ring, after (step (asked 5 [])), rfl⟩

theorem witness_LegalKept : Legal (asked 5 []) ∧ (∃ u, step (asked 5 []) = .next u) :=
  ⟨asked_legal 5 [], after (step (asked 5 [])), rfl⟩

end Sys2Proof.Tests
end

section
namespace Sys2Proof.Machine

/-! ### Requests as one operation (R165) -/

/-- What the acting block does at a request command; the other commands have no acting block. -/
def actOf : Instr → State → Answer
  | .claim t index cls => claimEffect t index cls
  | .release t index => releaseEffect t index
  | .join t bay index p m => joinEffect t ⟨bay, index⟩ p.toNat m.toNat
  | .leave t bay index => leaveEffect t ⟨bay, index⟩
  | .detach t => fun s => .done (s.teardown t)
  | .lineEnable _ line => enableEffect line
  | .lineDisable _ line => disableEffect line
  | .lineRestart _ line => restartEffect line
  | .setup t fields => setupEffect t fields
  | .mirror t fields => mirrorEffect t fields
  | .readStream _ bay index => readStreamEffect ⟨bay, index⟩
  | .readLine _ line => readLineEffect line
  | .readRing _ => readRingEffect
  | .readTributary t => fun s => ⟨s, .done, s.portSnapshot t⟩
  | .readProfile _ => fun s => ⟨s, .done, s.profileSnapshot⟩
  | .readMirror _ => fun s => ⟨s, .done, mirrorSnapshot s.timeBase s.mirror⟩
  | .clear t kinds => fun s => .done (s.changePort t (Port.clearReports kinds))
  | .requestUnknown _ code fields => fun s => .only s (unknownResult code fields)
  | _ => .done

/-- A request command is served with its acting block. -/
theorem exec_request {i : Instr} {t : Trib} {code : Byte} {fields : List Byte}
    (h : requestOf i = some (t, code, fields)) (s : State) : exec i s = .next (s.serve t i (actOf i)) := by
  cases i <;> cases h <;> rfl

@[simp] theorem Answer.only_state (s : State) (result : ResultCode) : (Answer.only s result).state = s := rfl

@[simp] theorem Answer.done_state (s : State) : (Answer.done s).state = s := rfl

/-! ### The parts of a legal state -/

/-- A legal profile with legal lines. -/
structure LinesLegal (s : State) : Prop where
  profile : ProfileLegal s.profile
  receivers : ReceiversLegal s
  egresses : EgressesLegal s

/-- An entry whose records, where it has any, are legal, with the alarm that the skew limit gives. -/
def RecordsLegal (limit : Nat) (e : Entry) : Prop :=
  ∀ sup ∈ e.sup, SupervisionLegal sup ∧ sup.skew.alarm = alarmOf limit sup.skew.e8

/-- Legal records in every entry, and a legal mirror, whose refresh time is the P of what MIRROR joins. -/
structure SupervisedLegal (s : State) : Prop where
  records : ∀ e ∈ s.table, RecordsLegal s.profile.skewLimit e
  mirror : MirrorLegal s.mirror

/-- A legal stream table that agrees with the contact mirror. -/
structure StreamsLegal (s : State) : Prop where
  table : TableLegal s
  linked : MirrorLinked s
  safe : SafeLevels s

/-- A state is legal when its five parts are. -/
theorem legal_iff (s : State) :
    Legal s ↔ PortsLegal s ∧ LinesLegal s ∧ SupervisedLegal s ∧ StreamsLegal s ∧ RingLegal s.bayValid s.ring := by
  constructor
  · intro h
    exact ⟨h.ports, ⟨h.profile, h.receivers, h.egresses⟩,
      ⟨fun e he sup hs => ⟨h.supervisions e he sup hs, h.alarms e he sup hs⟩, h.mirror⟩,
      ⟨h.table, h.linked, h.safe⟩, h.ring⟩
  · rintro ⟨hports, hlines, hsup, hstreams, hring⟩
    exact ⟨hlines.profile, hports, hlines.receivers, hlines.egresses, hstreams.table,
      fun e he sup hs => (hsup.records e he sup hs).1, fun e he sup hs => (hsup.records e he sup hs).2, hring,
      hsup.mirror, hstreams.linked, hstreams.safe⟩

/-- Each part is legal in `u` when it is in `s`. -/
structure Kept (s u : State) : Prop where
  ports : PortsLegal s → PortsLegal u
  lines : LinesLegal s → LinesLegal u
  supervised : SupervisedLegal s → SupervisedLegal u
  streams : StreamsLegal s → StreamsLegal u
  ring : RingLegal s.bayValid s.ring → RingLegal u.bayValid u.ring

theorem Kept.refl (s : State) : Kept s s := ⟨id, id, id, id, id⟩

theorem Kept.trans {s u v : State} (h : Kept s u) (k : Kept u v) : Kept s v :=
  ⟨k.ports ∘ h.ports, k.lines ∘ h.lines, k.supervised ∘ h.supervised, k.streams ∘ h.streams, k.ring ∘ h.ring⟩

theorem Kept.legal {s u : State} (h : Kept s u) (hs : Legal s) : Legal u := by
  rw [legal_iff] at hs ⊢
  obtain ⟨hports, hlines, hsup, hstreams, hring⟩ := hs
  exact ⟨h.ports hports, h.lines hlines, h.supervised hsup, h.streams hstreams, h.ring hring⟩

/-- Each part is kept, and no link changes. -/
structure Steady (s u : State) : Prop extends Kept s u where
  links : ∀ t : Trib, (u.ports.get t).link = (s.ports.get t).link

theorem Steady.refl (s : State) : Steady s s := ⟨.refl s, fun _ => rfl⟩

theorem Steady.trans {s u v : State} (h : Steady s u) (k : Steady u v) : Steady s v :=
  ⟨h.toKept.trans k.toKept, fun t => (k.links t).trans (h.links t)⟩

/-- Steady on the one branch and without change on the other. -/
theorem Steady.ite {s u : State} {c : Prop} [Decidable c] (h : c → Steady s u) : Steady s (if c then u else s) := by
  split
  · exact h ‹c›
  · exact .refl s

/-! ### What each part depends on -/

theorem PortsLegal.congr {s u : State} (h : PortsLegal s) (hports : u.ports = s.ports) : PortsLegal u := by
  intro t
  rw [hports]
  exact h t

theorem LinesLegal.congr {s u : State} (h : LinesLegal s) (hbay : u.ownBay = s.ownBay)
    (hprofile : u.profile = s.profile)
    (hreceivers : u.receivers = s.receivers) (hegresses : u.egresses = s.egresses) : LinesLegal u := by
  obtain ⟨hp, hr, he⟩ := h
  refine ⟨hprofile ▸ hp, ?_, ?_⟩
  · simpa only [ReceiversLegal, State.floor, State.bayValid, hbay, hprofile, hreceivers] using hr
  · simpa only [EgressesLegal, State.isOpen, hprofile, hreceivers, hegresses] using he

theorem SupervisedLegal.congr {s u : State} (h : SupervisedLegal s)
    (hlimit : u.profile.skewLimit = s.profile.skewLimit) (htable : u.table = s.table) (hmirror : u.mirror = s.mirror) :
    SupervisedLegal u :=
  ⟨by rw [hlimit, htable]; exact h.records, by rw [hmirror]; exact h.mirror⟩

/-- The stream table depends on publishing, the outputs and the source records of the mirror, and on nothing else
of it. -/
theorem StreamsLegal.congr_mirror {s u : State} (h : StreamsLegal s) (hbay : u.ownBay = s.ownBay)
    (htable : u.table = s.table) (hpublish : u.mirror.publish = s.mirror.publish)
    (houtputs : u.mirror.outputs = s.mirror.outputs) (hsources : u.mirror.sources = s.mirror.sources) :
    StreamsLegal u := by
  obtain ⟨⟨h1, h2, h3, h4, h5⟩, ⟨k1, k2, k3, k4, k5, k6⟩, hsafe⟩ := h
  refine ⟨⟨?_, ?_, ?_, ?_, ?_⟩, ⟨?_, ?_, ?_, ?_, ?_, ?_⟩, ?_⟩ <;>
    simpa only [TableOrdered, BindingsLegal, SafeLevels, State.find, State.ownId, hbay, htable, hpublish, houtputs,
      hsources]

theorem StreamsLegal.congr {s u : State} (h : StreamsLegal s) (hbay : u.ownBay = s.ownBay) (htable : u.table = s.table)
    (hmirror : u.mirror = s.mirror) : StreamsLegal u :=
  h.congr_mirror hbay htable (by rw [hmirror]) (by rw [hmirror]) (by rw [hmirror])

/-- Changes of the ports alone. -/
theorem Steady.of_ports {s u : State} (hu : u = { s with ports := u.ports })
    (hlink : ∀ t, (u.ports.get t).link = (s.ports.get t).link)
    (hlegal : ∀ t, PortLegal (s.ports.get t) → PortLegal (u.ports.get t)) : Steady s u where
  ports h t := hlegal t (h t)
  lines h := h.congr (by rw [hu]) (by rw [hu]) (by rw [hu]) (by rw [hu])
  supervised h := h.congr (by rw [hu]) (by rw [hu]) (by rw [hu])
  streams h := h.congr (by rw [hu]) (by rw [hu]) (by rw [hu])
  ring h := by rw [hu]; exact h
  links := hlink

/-- Changes of the fields that no legality speaks of. -/
theorem Steady.of_same {s u : State} (hbay : u.ownBay = s.ownBay) (hprofile : u.profile = s.profile)
    (htable : u.table = s.table) (hports : u.ports = s.ports) (hreceivers : u.receivers = s.receivers)
    (hegresses : u.egresses = s.egresses) (hring : u.ring = s.ring) (hmirror : u.mirror = s.mirror) : Steady s u where
  ports h := h.congr hports
  lines h := h.congr hbay hprofile hreceivers hegresses
  supervised h := h.congr (by rw [hprofile]) htable hmirror
  streams h := h.congr hbay htable hmirror
  ring h := by simpa only [State.bayValid, hbay, hring] using h
  links t := by rw [hports]

/-- Changes of the lines, and of the ports that hear of them. -/
theorem Kept.of_lines {s u : State} (hbay : u.ownBay = s.ownBay) (hprofile : u.profile = s.profile)
    (htable : u.table = s.table) (hring : u.ring = s.ring) (hmirror : u.mirror = s.mirror)
    (hports : PortsLegal s → PortsLegal u) (hlines : LinesLegal s → LinesLegal u) : Kept s u where
  ports := hports
  lines := hlines
  supervised h := h.congr (by rw [hprofile]) htable hmirror
  streams h := h.congr hbay htable hmirror
  ring h := by simpa only [State.bayValid, hbay, hring] using h

/-- Changes of the ring unit alone. -/
theorem Steady.of_ring {s : State} {f : RingUnit → RingUnit}
    (h : RingLegal s.bayValid s.ring → RingLegal s.bayValid (f s.ring)) : Steady s (s.changeRing f) where
  ports := id
  lines h := h.congr rfl rfl rfl rfl
  supervised h := h.congr rfl rfl rfl
  streams h := h.congr rfl rfl rfl
  ring := h
  links _ := rfl

end Sys2Proof.Machine
end

section
namespace Sys2Proof.Machine

/-! ### What the operations on the ports keep -/

theorem State.changePorts_steady {f : Trib → Port → Port} (s : State) (hlink : ∀ t p, (f t p).link = p.link)
    (hlegal : ∀ t p, PortLegal p → PortLegal (f t p)) : Steady s (s.changePorts f) :=
  .of_ports rfl (fun t => by simp [hlink]) (fun t h => by simpa using hlegal t _ h)

theorem State.raiseAll_steady (k : ReportKind) (s : State) : Steady s (s.raiseAll k) :=
  s.changePorts_steady (fun _ _ => Port.raise_link ..) fun _ _ h => Port.raise_legal h k

theorem State.raiseMembers_steady (k : ReportKind) (m : Members) (s : State) : Steady s (s.raiseMembers k m) := by
  refine s.changePorts_steady (fun t p => ?_) fun t p h => ?_ <;> split
  · exact Port.raise_link ..
  · rfl
  · exact Port.raise_legal h k
  · exact h

theorem State.raiseProfile_steady (t : Trib) (s : State) : Steady s (s.raiseProfile t) := by
  refine s.changePorts_steady (fun t p => ?_) fun t p h => ?_ <;> split
  · rfl
  · exact Port.raise_link ..
  · exact h
  · exact Port.raise_legal h _

theorem State.offerDataTo_steady (m : Members) (urgent : Bool) (r : DeliveryRecord) (s : State) :
    Steady s (s.offerDataTo m urgent r) := by
  refine s.changePorts_steady (fun t p => ?_) fun t p h => ?_ <;> split
  · exact Port.offerData_link ..
  · rfl
  · exact Port.offerData_legal h urgent r
  · exact h

theorem State.offerNoticeTo_steady (m : Members) (r : DeliveryRecord) (s : State) : Steady s (s.offerNoticeTo m r) := by
  refine s.changePorts_steady (fun t p => ?_) fun t p h => ?_ <;> split
  · exact Port.offerNotice_link ..
  · rfl
  · exact Port.offerNotice_legal h r
  · exact h

/-- One port changed by an operation that keeps a legal port legal. -/
theorem State.changePort_kept (t : Trib) {f : Port → Port} (s : State)
    (hlegal : PortLegal (s.ports.get t) → PortLegal (f (s.ports.get t))) : Kept s (s.changePort t f) where
  ports h u := by
    rw [State.changePort_get]
    split
    · exact hlegal (h t)
    · exact h u
  lines h := h.congr rfl rfl rfl rfl
  supervised h := h.congr rfl rfl rfl
  streams h := h.congr rfl rfl rfl
  ring := id

theorem State.changePort_steady (t : Trib) {f : Port → Port} (s : State)
    (hlink : (f (s.ports.get t)).link = (s.ports.get t).link)
    (hlegal : PortLegal (s.ports.get t) → PortLegal (f (s.ports.get t))) : Steady s (s.changePort t f) where
  toKept := s.changePort_kept t hlegal
  links u := by
    rw [State.changePort_get]
    split
    case isTrue h => rw [h, hlink]
    case isFalse => rfl

/-- A change of a port's counters keeps it legal. -/
theorem PortLegal.counters {p : Port} (h : PortLegal p) (c : PortCounters) : PortLegal { p with counters := c } :=
  ⟨h.bounded, h.downEmpty, h.freeIdle, h.reportPending, h.upUntimed⟩

/-! ### What serving a request keeps -/

/-- The reply is placed and the pointer moved on an UP link (R165). -/
theorem State.reply_kept (t : Trib) (y : Reply) (s : State) (hup : (s.ports.get t).link = .up) :
    Kept s { s.changePort t (Port.placeReply y) with pointer := t.next } :=
  (s.changePort_kept t fun h => Port.placeReply_legal h hup y).trans
    (Steady.of_same (s := s.changePort t (Port.placeReply y))
      (u := { s.changePort t (Port.placeReply y) with pointer := t.next })
      rfl rfl rfl rfl rfl rfl rfl rfl).toKept

/-- A tributary whose request is next has its link UP, when its port is legal (R85). -/
theorem PortsLegal.up_of_serving {s : State} (h : PortsLegal s) {t : Trib} {i : Instr} {r : Request}
    (hr : s.serving t i = some r) : (s.ports.get t).link = .up := by
  obtain ⟨-, rest, hq⟩ := State.nextRequest_some (State.serving_some hr).1
  by_contra hl
  have hd : (s.ports.get t).link = .down := by cases h : (s.ports.get t).link <;> simp_all
  obtain ⟨-, -, hreq, -⟩ := (h t).downEmpty hd
  rw [hq] at hreq
  cases hreq

/-- The execution of a request keeps every part legal when its acting block is steady (R165). -/
theorem State.execute_kept {s : State} {t : Trib} {i : Instr} {r : Request} (hr : s.serving t i = some r)
    {act : State → Answer} (hact : ∀ s, Steady s (act s).state) : Kept s (s.execute t r act) := by
  have htaken : Steady s (s.changePort t Port.takeRequest) :=
    s.changePort_steady t rfl Port.takeRequest_legal
  have hacted := htaken.trans (hact _)
  exact ⟨fun h => (State.reply_kept t _ _ ((hacted.links t).trans (h.up_of_serving hr))).ports (hacted.ports h),
    fun h => (hacted.lines h).congr rfl rfl rfl rfl, fun h => (hacted.supervised h).congr rfl rfl rfl,
    fun h => (hacted.streams h).congr rfl rfl rfl, hacted.ring⟩

/-! ### Timers (R7) -/

theorem State.advanceTo_steady (due : Time) (s : State) : Steady s (s.advanceTo due) := by
  apply Steady.of_same <;> simp

/-! ### What the operations of the ring unit keep -/

theorem RingLegal.counters {valid : Bool} {r : RingUnit} (h : RingLegal valid r) (c : RingCounters) :
    RingLegal valid { r with counters := c } :=
  ⟨h.timer, h.tally, h.unknown, h.outstanding, h.distinct, h.ages, h.nodes, h.rosterSize, h.rosterOrdered,
    h.rosterParts, h.rosterHops⟩

theorem State.countRing_steady (f : RingCounters → RingCounters) (s : State) : Steady s (s.countRing f) :=
  .of_ring fun h => h.counters _

theorem State.bayClash_steady (s : State) : Steady s s.bayClash :=
  (State.countRing_steady _ s).trans (State.raiseAll_steady _ _)

theorem State.takeOwnBeacon_steady (x : Line) (budget : Byte) (f : RingFrame) (s : State) :
    Steady s (s.takeOwnBeacon x budget f) := by
  unfold State.takeOwnBeacon
  split
  · split
    case isTrue hfits => exact .of_ring fun h => RingUnit.matched_legal h _ _ hfits _
    case isFalse => exact s.bayClash_steady
  · exact s.bayClash_steady

/-- A beacon added to the outstanding list of its line (R143). -/
theorem RingLegal.addOutstanding {valid : Bool} {r : RingUnit} (h : RingLegal valid r) (l : Line) (o : Outstanding) :
    RingLegal valid
      { r with outstanding := r.outstanding.set l (Machine.addOutstanding o (r.outstanding.get l)) } := by
  refine ⟨h.timer, h.tally, h.unknown, fun y => ?_, fun y => ?_, h.ages, h.nodes, h.rosterSize, h.rosterOrdered,
    h.rosterParts, h.rosterHops⟩ <;> rw [Pair.get_set] <;> split
  · exact addOutstanding_length o (h.outstanding l)
  · exact h.outstanding y
  · exact addOutstanding_distinct o (h.distinct l)
  · exact h.distinct y

theorem RingLegal.aged {valid : Bool} {r : RingUnit} (h : RingLegal valid r) :
    RingLegal valid { r with returnAge := r.returnAge.map ageReturn } :=
  ⟨h.timer, h.tally, h.unknown, h.outstanding, h.distinct, fun y => by simp [ageReturn_le], h.nodes, h.rosterSize,
    h.rosterOrdered, h.rosterParts, h.rosterHops⟩

/-- A running beacon timer started anew (R141). -/
theorem RingLegal.restarted {valid : Bool} {r : RingUnit} (h : RingLegal valid r) {due : Time}
    (hdue : r.beaconTimer = some due) (t : Time) : RingLegal valid { r with beaconTimer := some t } :=
  ⟨by rw [← h.timer, hdue]; rfl, h.tally, h.unknown, h.outstanding, h.distinct, h.ages, h.nodes, h.rosterSize,
    h.rosterOrdered, h.rosterParts, h.rosterHops⟩

/-! ### What the operations on the lines keep -/

/-- One line's receiver and egress replaced by legal ones. -/
theorem LinesLegal.of_set {s u : State} (h : LinesLegal s) (l : Line) {r : Receiver} {e : Egress}
    (hbay : u.ownBay = s.ownBay) (hprofile : u.profile = s.profile) (hr : u.receivers = s.receivers.set l r)
    (he : u.egresses = s.egresses.set l e) (hlegal : ReceiverLegal (s.floor l) r)
    (hoff : s.bayValid = false → r.state = .off) (hegress : EgressLegal (r.state == .locked) s.profile e) :
    LinesLegal u := by
  refine ⟨hprofile ▸ h.profile, ⟨fun k => ?_, fun hv k => ?_⟩, fun k => ?_⟩
  · rw [hr, Pair.get_set, State.floor, hprofile]
    split
    case isTrue hk => rw [hk]; exact hlegal
    case isFalse => exact h.receivers.1 k
  · rw [State.bayValid, hbay] at hv
    rw [hr, Pair.get_set]
    split
    · exact hoff hv
    · exact h.receivers.2 hv k
  · rw [State.isOpen, hr, he, hprofile, Pair.get_set, Pair.get_set]
    split
    · exact hegress
    · exact h.egresses k

/-- A receiver replaced by a legal one in the same state. -/
theorem LinesLegal.of_receiver {s u : State} (h : LinesLegal s) (l : Line) {r : Receiver}
    (hbay : u.ownBay = s.ownBay) (hprofile : u.profile = s.profile) (hr : u.receivers = s.receivers.set l r)
    (he : u.egresses = s.egresses) (hstate : r.state = (s.receivers.get l).state)
    (hlegal : ReceiverLegal (s.floor l) r) : LinesLegal u :=
  h.of_set l hbay hprofile hr (e := s.egresses.get l) (by rw [Pair.set_get, he]) hlegal
    (fun hv => by rw [hstate]; exact h.receivers.2 hv l) (by rw [hstate]; exact h.egresses l)

/-- An egress replaced by a legal one. -/
theorem LinesLegal.of_egress {s u : State} (h : LinesLegal s) (l : Line) {e : Egress}
    (hbay : u.ownBay = s.ownBay) (hprofile : u.profile = s.profile) (hr : u.receivers = s.receivers)
    (he : u.egresses = s.egresses.set l e) (hlegal : EgressLegal (s.isOpen l) s.profile e) : LinesLegal u :=
  h.of_set l hbay hprofile (r := s.receivers.get l) (by rw [Pair.set_get, hr]) he (h.receivers.1 l)
    (fun hv => h.receivers.2 hv l) hlegal

theorem State.offerLine_steady (l : Line) (q : QueueName) (f : RingFrame) (s : State) :
    Steady s (s.offerLine l q f) where
  toKept := .of_lines rfl rfl rfl rfl rfl id fun h =>
    h.of_egress l rfl rfl rfl rfl (Egress.offer_legal h.profile (h.egresses l) q f)
  links _ := rfl

theorem State.offerBoth_steady (q : QueueName) (f : RingFrame) (s : State) : Steady s (s.offerBoth q f) :=
  (s.offerLine_steady .a q f).trans (State.offerLine_steady .b q f _)

/-- A line that may be searched: its own bay is valid, and the level is in the range of its floor (R105, R114). -/
theorem LinesLegal.valid_of_on {s : State} (h : LinesLegal s) {l : Line} (hon : (s.receivers.get l).state ≠ .off) :
    s.bayValid = true := by
  by_contra hv
  exact hon (h.receivers.2 (by simpa using hv) l)

/-- A receiver that has just entered SEARCH is legal (R104, R105). -/
theorem ReceiverLegal.search {floor level : Nat} (hfloor : floor ≤ level) (hlevel : level ≤ 15) (timer : Time)
    (c : ReceiverCounters) : ReceiverLegal floor ⟨.search, level, some timer, none, 0, c⟩ :=
  ⟨hlevel, fun _ => hfloor, by simp, by simp, fun _ => rfl, by simp⟩

/-- A departure from LOCKED for SEARCH (R108, R130). -/
theorem State.departForSearch_steady (l : Line) {level : Nat} (s : State)
    (hlevel : ProfileLegal s.profile → s.floor l ≤ level ∧ level ≤ 15) (hon : (s.receivers.get l).state ≠ .off) :
    Steady s (s.departForSearch l level) where
  toKept := by
    refine .of_lines rfl rfl rfl rfl rfl (fun h => (State.raiseAll_steady .line _).ports h) fun h => ?_
    obtain ⟨hlow, hhigh⟩ := hlevel h.profile
    refine h.of_set l rfl rfl rfl rfl (ReceiverLegal.search hlow hhigh _ _) (fun hv => ?_)
      (Egress.abort_legal (h.egresses l))
    rw [h.valid_of_on hon] at hv
    cases hv
  links t := by simp [State.departForSearch, State.startSearch, State.changeEgress, State.changeReceiver]

/-- The lines are searched from OFF: a closed egress stays closed (R113). -/
theorem State.startSearch_steady (l : Line) {level : Nat} (s : State)
    (hlevel : ProfileLegal s.profile → s.floor l ≤ level ∧ level ≤ 15) (hvalid : s.bayValid = true)
    (hclosed : (s.receivers.get l).state ≠ .locked) : Steady s (s.startSearch l level) where
  toKept := by
    refine .of_lines rfl rfl rfl rfl rfl id fun h => ?_
    obtain ⟨hlow, hhigh⟩ := hlevel h.profile
    have hopen : s.isOpen l = false := by simpa [State.isOpen] using hclosed
    refine h.of_set l (e := s.egresses.get l) rfl rfl rfl (by rw [Pair.set_get]; rfl)
      (ReceiverLegal.search hlow hhigh _ _) (fun hv => by rw [hvalid] at hv; cases hv) ?_
    exact (h.egresses l).reopen ((h.egresses l).closedEmpty hopen)
  links _ := rfl

/-- An OFF receiver is legal whatever its floor (R104). -/
theorem ReceiverLegal.off {floor level : Nat} (hlevel : level ≤ 15) (c : ReceiverCounters) :
    ReceiverLegal floor ⟨.off, level, none, none, 0, c⟩ :=
  ⟨hlevel, by simp, by simp, by simp, fun _ => rfl, by simp⟩

/-- The entry into OFF (R112, R132). -/
theorem State.turnOff_steady (l : Line) (s : State) : Steady s (s.turnOff l) where
  toKept := by
    refine .of_lines (by simp) (by simp) (by simp) (by simp) (by simp) (fun h => ?_) fun h => ?_
    · refine (State.raiseAll_steady .line _).ports ?_
      split <;> exact h
    · have hreceiver := ReceiverLegal.off (floor := s.floor l) (h.receivers.1 l).level (s.receivers.get l).counters
      by_cases hopen : s.isOpen l = true
      · refine h.of_set l (e := (s.egresses.get l).flush s.profile.urgentBurst) (by simp) (by simp)
          (r := ⟨.off, (s.receivers.get l).level, none, none, 0, (s.receivers.get l).counters⟩) ?_ ?_ hreceiver
          (fun _ => rfl) (Egress.flush_legal (h.egresses l)) <;> simp only [State.turnOff, hopen, if_true] <;> rfl
      · have hclosed : s.isOpen l = false := by simpa using hopen
        refine h.of_set l (e := s.egresses.get l) (by simp) (by simp)
          (r := ⟨.off, (s.receivers.get l).level, none, none, 0, (s.receivers.get l).counters⟩) ?_ ?_ hreceiver
          (fun _ => rfl) ((h.egresses l).reopen ((h.egresses l).closedEmpty hclosed))
        · simp only [State.turnOff, hclosed]; rfl
        · rw [Pair.set_get]; simp only [State.turnOff, hclosed]; rfl
  links t := by
    unfold State.turnOff
    rw [State.raiseAll_get, Port.raise_link]
    split <;> rfl

/-- The entry into LOCKED from SEARCH (R107): the egress is opened with its queues empty (R133). -/
theorem State.lock_kept (l : Line) (s : State) (hsearch : (s.receivers.get l).state = .search) : Kept s (s.lock l) := by
  refine .of_lines rfl rfl rfl rfl rfl (fun h => (State.raiseAll_steady .line _).ports h) fun h => ?_
  have hclosed : s.isOpen l = false := by simp [State.isOpen, hsearch]
  refine h.of_set l (e := s.egresses.get l) rfl rfl rfl (by rw [Pair.set_get]; rfl)
    ⟨(h.receivers.1 l).level, by simp, by simp, by simp, by simp, by simp⟩ (fun hv => ?_)
    ((h.egresses l).reopen ((h.egresses l).closedEmpty hclosed))
  have := h.valid_of_on (l := l) (by simp [hsearch])
  rw [this] at hv
  cases hv

/-- One receiver changed by an operation that keeps its state. -/
theorem State.changeReceiver_steady (l : Line) {f : Receiver → Receiver} (s : State)
    (hstate : (f (s.receivers.get l)).state = (s.receivers.get l).state)
    (hlegal : ProfileLegal s.profile → ReceiverLegal (s.floor l) (s.receivers.get l) →
      ReceiverLegal (s.floor l) (f (s.receivers.get l))) : Steady s (s.changeReceiver l f) where
  toKept := .of_lines rfl rfl rfl rfl rfl id fun h =>
    h.of_receiver l rfl rfl rfl rfl hstate (hlegal h.profile (h.receivers.1 l))
  links _ := rfl

theorem State.countLine_steady (l : Line) (f : ReceiverCounters → ReceiverCounters) (s : State) :
    Steady s (s.countLine l f) :=
  s.changeReceiver_steady l rfl fun _ h => ⟨h.level, h.searchLevel, h.dwell, h.quality, h.count, h.countBound⟩

/-- A check failure below the threshold is counted, and counted toward quality (R116). -/
theorem State.checkFailure_of_below {l : Line} {s : State}
    (h : (s.receivers.get l).qualityCount + 1 < s.profile.qualityThreshold) :
    s.checkFailure l = s.changeReceiver l fun r =>
      { r with
        qualityCount := r.qualityCount + 1
        counters := { r.counters with checkFailures := r.counters.checkFailures + 1 } } :=
  if_neg (by omega)

/-- A check failure at the threshold is counted with the relock, and the line departs at the next level (R116). -/
theorem State.checkFailure_of_relock {l : Line} {s : State}
    (h : s.profile.qualityThreshold ≤ (s.receivers.get l).qualityCount + 1) :
    s.checkFailure l =
      (s.countLine l fun c =>
        { c with checkFailures := c.checkFailures + 1, qualityRelocks := c.qualityRelocks + 1 }).departForSearch l
        (nextLevel (s.floor l) (s.receivers.get l).level) := by
  unfold State.checkFailure
  rw [if_pos h]
  cases l <;> rfl

theorem State.checkFailure_steady (l : Line) (s : State) (hlocked : (s.receivers.get l).state = .locked) :
    Steady s (s.checkFailure l) := by
  by_cases h : s.profile.qualityThreshold ≤ (s.receivers.get l).qualityCount + 1
  · rw [State.checkFailure_of_relock h]
    refine (s.countLine_steady l _).trans (State.departForSearch_steady l _ (fun hp => ?_) ?_)
    · exact nextLevel_bounds _ (hp.floors l)
    · simp [State.countLine, hlocked]
  · rw [State.checkFailure_of_below (by omega)]
    refine s.changeReceiver_steady l rfl fun hp h => ?_
    have hthreshold := hp.qualityThreshold
    exact ⟨h.level, h.searchLevel, h.dwell, h.quality, fun hne => absurd hlocked hne, by dsimp only; omega⟩

end Sys2Proof.Machine
end

section
namespace Sys2Proof.Machine

/-! ### Entries -/

/-- An entry with the identifier, the holder, the subscribers and the presence of records of a legal one is legal. -/
theorem EntryLegal.of_same {ownBay : Byte} {e e' : Entry} (h : EntryLegal ownBay e) (hid : e'.id = e.id)
    (hholder : (e'.publisher.map fun p => p.holder) = e.publisher.map fun p => p.holder)
    (hmembers : e'.members = e.members) (hsup : e'.sup.isSome = e.sup.isSome) : EntryLegal ownBay e' := by
  have hnone : e'.publisher = none ↔ e.publisher = none := by
    rw [← Option.map_eq_none_iff (f := fun p : Publisher => p.holder), hholder, Option.map_eq_none_iff]
  have hby : ∀ x, e'.publishedBy x = e.publishedBy x := fun x => by simp only [Entry.publishedBy, hholder]
  refine ⟨by rw [hid]; exact h.index, ?_, by rw [hsup, hid]; exact h.supervised, ?_, by rw [hid, hby]; exact h.contact,
    by rw [hid, hmembers]; exact h.contactUnjoined, by rw [hid, hmembers]; exact h.ownUnmirrored, ?_⟩
  · rw [hmembers, Ne, hnone]
    exact h.held
  · rw [hid, hnone]
    exact h.foreignUnpublished
  · intro t
    rw [hby, hmembers]
    exact h.apart t

/-- Membership of a tributary left as it was, or removed, keeps the own place of MIRROR. -/
@[simp] theorem Members.put_trib_mirror (m : Members) (t : Trib) (b : Bool) : (m.put (.trib t) b).mirror = m.mirror :=
  rfl

/-- What settling a legal entry whose publisher or subscribers were reduced leaves is legal (R18, R21). -/
theorem EntryLegal.settle {ownBay : Byte} {e e' : Entry} (h : EntryLegal ownBay e) {publisher : Option Publisher}
    {members : Members} (hp : publisher = e.publisher ∨ (publisher = none ∧ e.publishedBy .mirror = false))
    (hm : ∀ x, members.has x = true → e.members.has x = true)
    (hs : ({ e with publisher := publisher, members := members } : Entry).settle = some e') : EntryLegal ownBay e' := by
  have hby : ∀ x, (({ e with publisher := publisher } : Entry).publishedBy x = true → e.publishedBy x = true) := by
    intro x
    rcases hp with rfl | ⟨rfl, -⟩
    · exact id
    · simp [Entry.publishedBy]
  have hmirror : ({ e with publisher := publisher } : Entry).publishedBy .mirror = e.publishedBy .mirror := by
    rcases hp with rfl | ⟨rfl, hn⟩
    · rfl
    · rw [hn]
      rfl
  have hforeign : e.id.bay ≠ ownBay → publisher = none := by
    intro hb
    rcases hp with rfl | ⟨rfl, -⟩
    · exact h.foreignUnpublished hb
    · rfl
  have hfalse : ∀ x, e.members.has x = false → members.has x = false := by
    intro x hx
    by_contra hn
    rw [hm x (by simpa using hn)] at hx
    cases hx
  have hempty : e.members = Members.empty → members = Members.empty := fun he =>
    (Members.eq_empty_iff _).mpr fun x => hfalse x ((Members.eq_empty_iff _).mp he x)
  have hapart : ∀ t : Trib, ({ e with publisher := publisher } : Entry).publishedBy (.trib t) = true →
      members.has (.trib t) = false := fun t ht => hfalse _ (h.apart t (hby _ ht))
  rcases Entry.settle_cases { e with publisher := publisher, members := members } with
    ⟨-, -, he⟩ | ⟨he0, hpub, he⟩ | ⟨hne, he⟩
  · rw [he] at hs
    cases hs
  · rw [he] at hs
    cases hs
    have hown : e.id.bay = ownBay := by
      by_contra hb
      exact hpub (hforeign hb)
    exact ⟨h.index, .inl hpub, by simp [hown], hforeign, by rw [h.contact, ← hmirror]; rfl,
      fun hi => hempty (h.contactUnjoined hi), fun hb => hfalse .mirror (h.ownUnmirrored hb), hapart⟩
  · rw [he] at hs
    cases hs
    exact ⟨h.index, .inr hne, h.supervised, hforeign, by rw [h.contact, ← hmirror]; rfl,
      fun hi => hempty (h.contactUnjoined hi), fun hb => hfalse .mirror (h.ownUnmirrored hb), hapart⟩

/-- Settling keeps the records of an entry or drops them. -/
theorem Entry.settle_sup {e e' : Entry} (hs : e.settle = some e') :
    e'.sup = e.sup ∨ (e'.sup = none ∧ e.members = Members.empty) := by
  rcases e.settle_cases with ⟨-, -, he⟩ | ⟨hm, -, he⟩ | ⟨-, he⟩ <;> rw [he] at hs <;> cases hs
  · exact .inr ⟨rfl, hm⟩
  · exact .inl rfl

/-- Settling an entry that has a holder leaves it. -/
theorem Entry.settle_isSome {e : Entry} (h : e.publisher ≠ none ∨ e.members ≠ Members.empty) :
    e.settle.isSome = true := by
  rcases e.settle_cases with ⟨hm, hp, -⟩ | ⟨-, -, he⟩ | ⟨-, he⟩
  · rcases h with h | h
    · exact absurd hp h
    · exact absurd hm h
  · rw [he]; rfl
  · rw [he]; rfl

/-! ### Passes over the table -/

/-- What a pass over the table makes of an entry, where it leaves the contact mirror's part of it as it was: MIRROR stays
the subscriber or publisher that it is. -/
structure Passed (ownBay : Byte) (e : Entry) (o : Option Entry) : Prop where
  id : ∀ e' ∈ o, e'.id = e.id
  legal : ∀ e' ∈ o, EntryLegal ownBay e'
  mirror : ∀ e' ∈ o, e'.members.mirror = e.members.mirror
  stays : e.members.mirror = true ∨ e.publishedBy .mirror = true → o.isSome = true

/-- A legal entry that is left as it was. -/
theorem Passed.same {ownBay : Byte} {e : Entry} (h : EntryLegal ownBay e) : Passed ownBay e (some e) :=
  ⟨by simp, by simpa using h, by simp, by simp⟩

/-- A legal entry left in its place by a legal one. -/
theorem Passed.to_some {ownBay : Byte} {e e' : Entry} (hid : e'.id = e.id) (hlegal : EntryLegal ownBay e')
    (hmirror : e'.members.mirror = e.members.mirror) : Passed ownBay e (some e') :=
  ⟨by simpa using hid, by simpa using hlegal, by simpa using hmirror, by simp⟩

/-- A legal entry changed in its publisher's state and its records alone. -/
theorem Passed.of_same {ownBay : Byte} {e e' : Entry} (h : EntryLegal ownBay e) (hid : e'.id = e.id)
    (hholder : (e'.publisher.map fun p => p.holder) = e.publisher.map fun p => p.holder)
    (hmembers : e'.members = e.members) (hsup : e'.sup.isSome = e.sup.isSome) : Passed ownBay e (some e') :=
  ⟨by simpa using hid, by simpa using h.of_same hid hholder hmembers hsup, by simp [hmembers], by simp⟩

/-- A subscriber set that MIRROR is in is not empty. -/
theorem Members.ne_empty_of_mirror {m : Members} (h : m.mirror = true) : m ≠ Members.empty := by
  rintro rfl
  cases h

/-- A legal entry whose publisher or subscribers are reduced, MIRROR staying what it is, and then settled. -/
theorem Passed.of_settle {ownBay : Byte} {e : Entry} (h : EntryLegal ownBay e) {publisher : Option Publisher}
    {members : Members} (hp : publisher = e.publisher ∨ (publisher = none ∧ e.publishedBy .mirror = false))
    (hm : ∀ x, members.has x = true → e.members.has x = true) (hmirror : members.mirror = e.members.mirror) :
    Passed ownBay e ({ e with publisher := publisher, members := members } : Entry).settle where
  id e' he' := (Entry.settle_some he').1
  legal e' he' := h.settle hp hm he'
  mirror e' he' := by
    obtain ⟨-, -, -, hmembers, -⟩ := Entry.settle_some he'
    rw [hmembers, hmirror]
  stays hstay := by
    apply Entry.settle_isSome
    rcases hstay with hstay | hstay
    · exact .inr (Members.ne_empty_of_mirror (by simpa [hmirror] using hstay))
    · left
      rcases hp with rfl | ⟨-, hn⟩
      · intro hnone
        have hpub : e.publisher = none := hnone
        simp [Entry.publishedBy, hpub] at hstay
      · rw [hn] at hstay
        cases hstay

/-- A subscriber set with a place cleared holds no one new. -/
theorem Members.has_of_put_false {m : Members} {h x : Holder} (hx : (m.put h false).has x = true) : m.has x = true := by
  by_cases he : x = h
  · subst he
    simp at hx
  · rwa [Members.has_put_ne _ he] at hx

theorem Entry.publishedBy_trib_mirror {e : Entry} {t : Trib} (h : e.publishedBy (.trib t) = true) :
    e.publishedBy .mirror = false := by
  rw [Entry.publishedBy, beq_iff_eq] at h
  rw [Entry.publishedBy, h]
  rfl

theorem Passed.teardown {ownBay : Byte} {e : Entry} (h : EntryLegal ownBay e) (t : Trib) :
    Passed ownBay e (e.teardown t) := by
  unfold Entry.teardown
  split
  · refine Passed.of_settle h ?_ (fun x hx => Members.has_of_put_false hx) (Members.put_trib_mirror ..)
    split
    case isTrue hp => exact .inr ⟨rfl, Entry.publishedBy_trib_mirror hp⟩
    case isFalse => exact .inl rfl
  · exact .same h

theorem Passed.leave {ownBay : Byte} {e : Entry} (h : EntryLegal ownBay e) (t : Trib) :
    Passed ownBay e (e.leave (.trib t)) :=
  Passed.of_settle h (.inl rfl) (fun _ hx => Members.has_of_put_false hx) (Members.put_trib_mirror ..)

theorem Passed.unpublish {ownBay : Byte} {e : Entry} (h : EntryLegal ownBay e) (hm : e.publishedBy .mirror = false) :
    Passed ownBay e e.unpublish :=
  Passed.of_settle h (.inr ⟨rfl, hm⟩) (fun _ hx => hx) rfl

/-- A pass that drops records, or changes only the entry of one identifier, written as a pass over every entry. -/
theorem changeEntry_eq_filterMap (id : StreamId) (f : Entry → Option Entry) (table : List Entry) :
    changeEntry id f table = table.filterMap fun e => if e.id = id then f e else some e := rfl

/-- A pass that changes the entry of one identifier passes it, and every other as it was. -/
theorem Passed.change {ownBay : Byte} {e : Entry} (h : EntryLegal ownBay e) {id : StreamId} {f : Entry → Option Entry}
    (hf : e.id = id → Passed ownBay e (f e)) : Passed ownBay e (if e.id = id then f e else some e) := by
  split
  case isTrue hid => exact hf hid
  case isFalse => exact .same h

/-- What is found after a pass that keeps identifiers: what it makes of what was found. -/
theorem findEntry_pass {g : Entry → Option Entry} {ownBay : Byte} {table : List Entry}
    (ho : table.Pairwise fun x y => x.id.key < y.id.key) (hg : ∀ e ∈ table, Passed ownBay e (g e)) (id : StreamId) :
    findEntry id (table.filterMap g) = (findEntry id table).bind g := by
  have hsame : table.filterMap g = table.filterMap fun e => (g e).filter fun e' => e'.id = e.id := by
    refine List.filterMap_congr fun e he => ?_
    rcases hge : g e with _ | e'
    · rfl
    · rw [Option.filter_some, if_pos (by simpa using (hg e he).id e' hge)]
  rw [hsame, findEntry_filterMap (fun e e' he' => by simpa using (Option.filter_eq_some_iff.mp he').2) ho]
  rcases hf : findEntry id table with _ | e
  · rfl
  · rcases hge : g e with _ | e'
    · simp [hge]
    · simp [hge, (hg e (findEntry_mem hf)).id e' hge]

/-- A pass keeps the ascending order. -/
theorem ordered_pass {g : Entry → Option Entry} {ownBay : Byte} {table : List Entry}
    (ho : table.Pairwise fun x y => x.id.key < y.id.key) (hg : ∀ e ∈ table, Passed ownBay e (g e)) :
    (table.filterMap g).Pairwise fun x y => x.id.key < y.id.key := by
  rw [List.pairwise_filterMap]
  refine ho.imp_of_mem ?_
  intro x y hx hy hxy x' hx' y' hy'
  rw [(hg x hx).id x' hx', (hg y hy).id y' hy']
  exact hxy

/-! ### The table of a part that publishes contact states -/

/-- A stream table in order, of legal entries, that MIRROR has joined for exactly the bays that `bound` names, with the
own contact entry exactly while publishing is on. -/
structure MirrorTable (ownBay : Byte) (bound : Byte → Prop) (publish : Prop) (table : List Entry) : Prop where
  ordered : table.Pairwise fun x y => x.id.key < y.id.key
  entries : ∀ e ∈ table, EntryLegal ownBay e
  contact : (findEntry ⟨ownBay, 0⟩ table).isSome = true ↔ publish
  members : ∀ e ∈ table, e.members.mirror = true ↔ e.id.index = 0 ∧ bound e.id.bay
  joined : ∀ b, bound b → (findEntry ⟨b, 0⟩ table).isSome = true

/-- A source record for each bound bay, in order, with the health of its entry and without data where that is WAITING
or LOST. -/
structure SourcesLegal (bound : Byte → Prop) (table : List Entry) (sources : List Source) : Prop where
  found : ∀ b : Byte, (findSource b sources).isSome = true ↔ bound b
  ordered : sources.Pairwise fun x y => x.bay.toNat < y.bay.toNat
  health : ∀ r ∈ sources, r.health = entryHealth r.bay table
  noData : ∀ r ∈ sources, r.health = .waiting ∨ r.health = .lost → r.data = none

/-- The bays that the outputs of a mirror are bound to. -/
def Mirror.Bound (m : Mirror) (b : Byte) : Prop := b ∈ boundBays m.outputs

theorem streamsLegal_iff (s : State) :
    StreamsLegal s ↔ s.table.length ≤ 64
      ∧ MirrorTable s.ownBay s.mirror.Bound (s.mirror.publish = true) s.table
      ∧ SourcesLegal s.mirror.Bound s.table s.mirror.sources ∧ BindingsLegal s ∧ SafeLevels s := by
  constructor
  · rintro ⟨⟨hsize, ho, he, hc, hb⟩, ⟨hm, hj, hs, hso, hh, hd⟩, hsafe⟩
    exact ⟨hsize, ⟨ho, he, hc, hm, hj⟩, ⟨hs, hso, hh, hd⟩, hb, hsafe⟩
  · rintro ⟨hsize, ⟨ho, he, hc, hm, hj⟩, ⟨hs, hso, hh, hd⟩, hb, hsafe⟩
    exact ⟨⟨hsize, ho, he, hc, hb⟩, ⟨hm, hj, hs, hso, hh, hd⟩, hsafe⟩

/-- A pass that leaves MIRROR's part as it was. -/
theorem MirrorTable.pass {ownBay : Byte} {bound : Byte → Prop} {publish : Prop} {table : List Entry}
    (h : MirrorTable ownBay bound publish table) {g : Entry → Option Entry}
    (hg : ∀ e ∈ table, Passed ownBay e (g e)) : MirrorTable ownBay bound publish (table.filterMap g) where
  ordered := ordered_pass h.ordered hg
  entries e' he' := by
    obtain ⟨e, he, hge⟩ := List.mem_filterMap.mp he'
    exact (hg e he).legal e' hge
  contact := by
    rw [findEntry_pass h.ordered hg, ← h.contact]
    rcases hf : findEntry ⟨ownBay, 0⟩ table with _ | e
    · rfl
    · have hmem := findEntry_mem hf
      simpa using (hg e hmem).stays (.inr ((h.entries e hmem).contact.mp (findEntry_id hf)))
  members e' he' := by
    obtain ⟨e, he, hge⟩ := List.mem_filterMap.mp he'
    rw [(hg e he).mirror e' hge, (hg e he).id e' hge]
    exact h.members e he
  joined b hb := by
    rw [findEntry_pass h.ordered hg]
    obtain ⟨e, hf⟩ := Option.isSome_iff_exists.mp (h.joined b hb)
    have hmem := findEntry_mem hf
    rw [hf]
    have hid := findEntry_id hf
    exact (hg e hmem).stays (.inl ((h.members e hmem).mpr (by rw [hid]; exact ⟨rfl, hb⟩)))

/-- A new entry that MIRROR has no part in. -/
theorem MirrorTable.insert {ownBay : Byte} {bound : Byte → Prop} {publish : Prop} {table : List Entry}
    (h : MirrorTable ownBay bound publish table) {e : Entry} (hnew : findEntry e.id table = none)
    (hlegal : EntryLegal ownBay e) (hown : e.id ≠ ⟨ownBay, 0⟩) (hmirror : e.members.mirror = false) :
    MirrorTable ownBay bound publish (insertEntry e table) where
  ordered := insertEntry_ordered hnew h.ordered
  entries x hx := by
    rcases mem_insertEntry.mp hx with rfl | hx
    · exact hlegal
    · exact h.entries x hx
  contact := by
    rw [findEntry_insertEntry hnew, if_neg (Ne.symm hown)]
    exact h.contact
  members x hx := by
    rcases mem_insertEntry.mp hx with rfl | hx
    · rw [hmirror]
      simp only [Bool.false_eq_true, false_iff, not_and]
      intro hi hb
      have hid : x.id = ⟨x.id.bay, 0⟩ := by rw [← hi]
      have := h.joined _ hb
      rw [← hid, hnew] at this
      cases this
    · exact h.members x hx
  joined b hb := by
    rw [findEntry_insertEntry hnew]
    split
    · rfl
    · exact h.joined b hb

/-- MIRROR's entry of a bound bay. -/
theorem MirrorTable.entry_of_bound {ownBay : Byte} {bound : Byte → Prop} {publish : Prop} {table : List Entry}
    (h : MirrorTable ownBay bound publish table) {b : Byte} (hb : bound b) :
    ∃ e, findEntry ⟨b, 0⟩ table = some e ∧ e.members.mirror = true := by
  obtain ⟨e, hf⟩ := Option.isSome_iff_exists.mp (h.joined b hb)
  refine ⟨e, hf, (h.members e (findEntry_mem hf)).mpr ?_⟩
  rw [findEntry_id hf]
  exact ⟨rfl, hb⟩

/-- The health of a source's entry, by what is found. -/
theorem entryHealth_congr {bay : Byte} {table table' : List Entry}
    (h : ((findEntry ⟨bay, 0⟩ table').bind fun e => e.sup.map fun sup => sup.health)
      = (findEntry ⟨bay, 0⟩ table).bind fun e => e.sup.map fun sup => sup.health) :
    entryHealth bay table' = entryHealth bay table := by
  have hform : ∀ t, entryHealth bay t
      = ((findEntry ⟨bay, 0⟩ t).bind fun e => e.sup.map fun sup => sup.health).getD .waiting := by
    intro t
    unfold entryHealth
    rcases findEntry ⟨bay, 0⟩ t with _ | e
    · rfl
    · rcases hs : e.sup with _ | sup <;> simp [hs]
  rw [hform, hform, h]

/-- The source records stay legal while the health of every bound bay's entry stays. -/
theorem SourcesLegal.of_health {bound : Byte → Prop} {table table' : List Entry} {sources : List Source}
    (h : SourcesLegal bound table sources) (hh : ∀ b, bound b → entryHealth b table' = entryHealth b table) :
    SourcesLegal bound table' sources := by
  refine ⟨h.found, h.ordered, fun r hr => ?_, h.noData⟩
  have hbound : bound r.bay := by
    rw [← h.found]
    unfold findSource
    rw [List.find?_isSome]
    exact ⟨r, hr, by simp⟩
  rw [hh _ hbound]
  exact h.health r hr

/-- A pass that leaves MIRROR's part as it was, with the health of the entries that MIRROR has joined. -/
theorem StreamsLegal.pass {s u : State} (h : StreamsLegal s) {g : Entry → Option Entry} (hbay : u.ownBay = s.ownBay)
    (htable : u.table = s.table.filterMap g) (hg : ∀ e ∈ s.table, EntryLegal s.ownBay e → Passed s.ownBay e (g e))
    (hhealth : ∀ e ∈ s.table, e.members.mirror = true → ∀ e' ∈ g e,
      (e'.sup.map fun sup => sup.health) = e.sup.map fun sup => sup.health)
    (hpublish : u.mirror.publish = s.mirror.publish) (houtputs : u.mirror.outputs = s.mirror.outputs)
    (hsources : u.mirror.sources = s.mirror.sources) : StreamsLegal u := by
  rw [streamsLegal_iff] at h ⊢
  obtain ⟨hsize, htab, hsrc, hbind, hsafe⟩ := h
  have hpass : ∀ e ∈ s.table, Passed s.ownBay e (g e) := fun e he => hg e he (htab.entries e he)
  have hbound : u.mirror.Bound = s.mirror.Bound := by
    unfold Mirror.Bound
    rw [houtputs]
  simp only [BindingsLegal, SafeLevels, hbound, hbay, htable, hpublish, houtputs, hsources] at *
  refine ⟨le_trans (List.length_filterMap_le ..) hsize, htab.pass hpass, hsrc.of_health fun b hb => ?_, hbind, hsafe⟩
  apply entryHealth_congr
  rw [findEntry_pass htab.ordered hpass]
  obtain ⟨e, hf, hm⟩ := htab.entry_of_bound hb
  have hmem := findEntry_mem hf
  obtain ⟨e', hge⟩ := Option.isSome_iff_exists.mp ((hpass e hmem).stays (.inl hm))
  rw [hf]
  simp only [Option.bind_some, hge]
  exact hhealth e hmem hm e' hge

/-- A new entry that MIRROR has no part in, where there is a free slot (R20). -/
theorem StreamsLegal.insert {s u : State} (h : StreamsLegal s) {e : Entry} (hbay : u.ownBay = s.ownBay)
    (htable : u.table = insertEntry e s.table) (hmirror : u.mirror = s.mirror) (hfree : freeSlots s.table ≠ 0)
    (hnew : findEntry e.id s.table = none) (hlegal : EntryLegal s.ownBay e) (hown : e.id ≠ ⟨s.ownBay, 0⟩)
    (hunjoined : e.members.mirror = false) : StreamsLegal u := by
  rw [streamsLegal_iff] at h ⊢
  obtain ⟨hsize, htab, hsrc, hbind, hsafe⟩ := h
  simp only [BindingsLegal, SafeLevels, hbay, htable, hmirror] at *
  refine ⟨?_, htab.insert hnew hlegal hown hunjoined, hsrc.of_health fun b hb => ?_, hbind, hsafe⟩
  · rw [length_insertEntry]
    unfold freeSlots Config.tableSlots at hfree
    omega
  · apply entryHealth_congr
    obtain ⟨x, hf, -⟩ := htab.entry_of_bound hb
    have hne : (⟨b, 0⟩ : StreamId) ≠ e.id := by
      intro he
      rw [he, hnew] at hf
      cases hf
    rw [findEntry_insertEntry hnew, if_neg hne]

end Sys2Proof.Machine
end

section
namespace Sys2Proof.Machine

/-! ### What the operations on the stream table keep -/

/-- An entry that keeps its records keeps them legal. -/
theorem RecordsLegal.of_sup {limit : Nat} {e e' : Entry} (h : RecordsLegal limit e)
    (hs : e'.sup = e.sup ∨ e'.sup = none) :
    RecordsLegal limit e' := by
  intro sup hsup
  rcases hs with hs | hs <;> rw [hs] at hsup
  · exact h sup hsup
  · cases hsup

/-- A pass over the table that leaves MIRROR's part, and the health of what MIRROR has joined, as they were. -/
theorem Steady.of_pass {s : State} {g : Entry → Option Entry}
    (hg : ∀ e ∈ s.table, EntryLegal s.ownBay e → Passed s.ownBay e (g e))
    (hrecords : ∀ e ∈ s.table, RecordsLegal s.profile.skewLimit e →
      ∀ e' ∈ g e, RecordsLegal s.profile.skewLimit e')
    (hhealth : ∀ e ∈ s.table, e.members.mirror = true → ∀ e' ∈ g e,
      (e'.sup.map fun sup => sup.health) = e.sup.map fun sup => sup.health) :
    Steady s { s with table := s.table.filterMap g } where
  ports := id
  lines h := h.congr rfl rfl rfl rfl
  supervised h := ⟨fun e' he' => by
    obtain ⟨e, he, hge⟩ := List.mem_filterMap.mp he'
    exact hrecords e he (h.records e he) e' hge, h.mirror⟩
  streams h := h.pass rfl rfl hg hhealth rfl rfl rfl
  ring := id
  links _ := rfl

/-- A pass that changes the entry of one identifier and keeps its records, or drops them where MIRROR is no member. -/
theorem Steady.of_change {s : State} {id : StreamId} {f : Entry → Option Entry}
    (hf : ∀ e, s.find id = some e → EntryLegal s.ownBay e → Passed s.ownBay e (f e))
    (hsup : ∀ e e', f e = some e' → e'.sup = e.sup ∨ (e'.sup = none ∧ e.members.mirror = false)) :
    Steady s { s with table := changeEntry id f s.table } where
  ports h := h
  lines h := h.congr rfl rfl rfl rfl
  supervised h := ⟨fun e' he' => by
    obtain ⟨e, he, ⟨-, rfl⟩ | ⟨-, hfe⟩⟩ := mem_changeEntry.mp he'
    · exact h.records e' he
    · exact (h.records e he).of_sup ((hsup e e' hfe).imp_right And.left), h.mirror⟩
  streams h := by
    refine h.pass rfl (changeEntry_eq_filterMap ..) (fun e he hlegal => Passed.change hlegal fun hid => ?_)
      (fun e he hm e' he' => ?_) rfl rfl rfl
    · exact hf e (hid ▸ findEntry_of_mem h.table.ordered he) hlegal
    · split at he'
      · rcases hsup e e' he' with hs | ⟨-, hn⟩
        · rw [hs]
        · rw [hm] at hn
          cases hn
      · cases he'
        rfl
  ring h := h
  links _ := rfl

theorem State.teardown_steady (t : Trib) (s : State) : Steady s (s.teardown t) := by
  have hpass : Steady s { s with table := s.table.filterMap (Entry.teardown t) } := by
    have hsup : ∀ e e' : Entry, e.teardown t = some e' →
        e'.sup = e.sup ∨ (e'.sup = none ∧ e.members.put (.trib t) false = Members.empty) := by
      intro e e' he
      unfold Entry.teardown at he
      split at he
      · exact Entry.settle_sup he
      · cases he
        exact .inl rfl
    refine .of_pass (fun e _ h => .teardown h t) (fun e _ h e' he' => h.of_sup ((hsup e e' he').imp_right And.left))
      fun e _ hm e' he' => ?_
    rcases hsup e e' he' with hs | ⟨-, hn⟩
    · rw [hs]
    · exact absurd hn (Members.ne_empty_of_mirror (by simpa using hm))
  exact hpass.trans (State.changePort_steady t _ rfl Port.emptyQueues_legal)

theorem Entry.setPublisherState_holder (t : Trib) (st : PublisherState) (e : Entry) :
    ((e.setPublisherState t st).publisher.map fun p => p.holder) = e.publisher.map fun p => p.holder := by
  unfold Entry.setPublisherState
  split
  · simp [Function.comp_def]
  · rfl

@[simp] theorem Entry.setPublisherState_members (t : Trib) (st : PublisherState) (e : Entry) :
    (e.setPublisherState t st).members = e.members := by
  unfold Entry.setPublisherState
  split <;> rfl

@[simp] theorem Entry.setPublisherState_sup (t : Trib) (st : PublisherState) (e : Entry) :
    (e.setPublisherState t st).sup = e.sup := by
  unfold Entry.setPublisherState
  split <;> rfl

/-- The claims of a tributary put in a publisher state (R35, R37). -/
theorem Steady.setPublisherState (t : Trib) (st : PublisherState) (s : State) :
    Steady s { s with table := s.table.map (Entry.setPublisherState t st) } := by
  rw [← List.filterMap_eq_map]
  refine .of_pass (fun e _ h => ?_) (fun e _ h e' he' => ?_) fun e _ _ e' he' => ?_
  · exact .of_same h (Entry.setPublisherState_id ..) (Entry.setPublisherState_holder ..) (by simp) (by simp)
  · cases he'
    exact h.of_sup (.inl (by simp))
  · cases he'
    simp

/-- Skew alarms evaluated against a new limit, with the profile that has it (R80). -/
theorem RecordsLegal.evaluateSkew {limit : Nat} {e : Entry} (h : RecordsLegal limit e) (newLimit : Nat) :
    RecordsLegal newLimit (e.evaluateSkew newLimit) := by
  intro sup hsup
  obtain ⟨old, hold, rfl⟩ := Option.map_eq_some_iff.mp hsup
  have hlegal := (h old hold).1
  refine ⟨⟨hlegal.period, hlegal.multiplier, hlegal.window, ⟨hlegal.skew.range, hlegal.skew.front, fun he => ?_⟩,
    hlegal.agree, hlegal.timers, hlegal.heard, hlegal.unheard⟩, rfl⟩
  simp only [Skew.evaluate] at he ⊢
  rw [he]
  rfl

theorem Entry.intake_holder (e : Entry) :
    (e.intake.publisher.map fun p => p.holder) = e.publisher.map fun p => p.holder := by
  simp [Entry.intake, Function.comp_def]

/-- An intake of a stream (R90, R159). -/
theorem Steady.intake (id : StreamId) (s : State) :
    Steady s { s with table := changeEntry id (fun e => some e.intake) s.table } :=
  .of_change (fun e _ h => .of_same h rfl (Entry.intake_holder e) rfl rfl) fun e e' he' => by cases he'; exact .inl rfl

theorem State.stamp_steady (t : Trib) (index : Byte) (payload : List Byte) (e : Entry) (seq : SeqNo) (s : State) :
    Steady s (s.stamp t index payload e seq) :=
  (((Steady.intake (s.ownId index) s).trans (State.changePort_steady t _ rfl fun h => h.counters _)).trans
    (State.offerBoth_steady _ _ _)).trans (State.offerDataTo_steady _ _ _ _)

theorem State.intake_steady (t : Trib) (index : Byte) (payload : List Byte) (s : State) :
    Steady s (s.intake t index payload) := by
  have hunclaimed : Steady s (s.changePort t Port.unclaimed) := s.changePort_steady t rfl fun h => h.counters _
  unfold State.intake
  split
  · exact hunclaimed
  · split
    · exact hunclaimed
    · split
      · exact hunclaimed
      · split
        · exact s.stamp_steady ..
        · exact s.changePort_steady t (Port.raise_link ..) fun h => Port.raise_legal (h.counters _) _

/-! ### Requests on the stream table -/

/-- An index that a claim may name is 1 to 63 (R22). -/
theorem claimIndexRefused_false {index : Byte} (h : claimIndexRefused index = false) :
    index ≠ 0 ∧ index.toNat ≤ 63 := by
  simp only [claimIndexRefused, decide_eq_false_iff_not, not_or, not_lt] at h
  exact h

/-- A claimed entry is legal (R22, R23). -/
theorem EntryLegal.claimed {ownBay : Byte} {e : Entry} (h : EntryLegal ownBay e) {t : Trib} (hb : e.id.bay = ownBay)
    (hi : e.id.index ≠ 0) (hm : e.members.has (.trib t) = false) (cls : StreamClass) :
    EntryLegal ownBay { e with publisher := some ⟨.trib t, .active, 0⟩, cls := cls } := by
  have hown : e.id ≠ ⟨ownBay, 0⟩ := fun he => hi (by rw [he])
  refine ⟨h.index, .inl (by simp), h.supervised, fun hne => absurd hb hne, ?_, h.contactUnjoined, h.ownUnmirrored, ?_⟩
  · exact iff_of_false hown (by simp [Entry.publishedBy])
  · intro u hu
    have hut : t = u := by simpa [Entry.publishedBy] using hu
    rw [← hut]
    exact hm

/-- A new entry of the own bay with a publisher of its own (R22). -/
theorem EntryLegal.make_claimed {ownBay index : Byte} (hi : index ≠ 0 ∧ index.toNat ≤ 63) (t : Trib)
    (cls : StreamClass) :
    EntryLegal ownBay (Entry.make ⟨ownBay, index⟩ cls (some ⟨.trib t, .active, 0⟩) Members.empty none) :=
  ⟨hi.2, .inl (by simp [Entry.make]), by simp [Entry.make], fun hne => absurd rfl hne,
    iff_of_false (fun he => hi.1 (congrArg StreamId.index he)) (by simp [Entry.make, Entry.publishedBy]),
    fun _ => rfl, fun _ => rfl,
    fun _ _ => (Members.eq_empty_iff _).mp rfl _⟩

theorem RecordsLegal.of_none {limit : Nat} {e : Entry} (h : e.sup = none) : RecordsLegal limit e := by
  intro sup hs
  rw [h] at hs
  cases hs

/-- A new entry that MIRROR has no part in, with a free slot for it. -/
theorem Steady.of_insert {s : State} {e : Entry} (hfree : freeSlots s.table ≠ 0)
    (hnew : findEntry e.id s.table = none) (hlegal : EntryLegal s.ownBay e) (hown : e.id ≠ ⟨s.ownBay, 0⟩)
    (hunjoined : e.members.mirror = false) (hrecords : RecordsLegal s.profile.skewLimit e) :
    Steady s { s with table := insertEntry e s.table } where
  ports := id
  lines h := h.congr rfl rfl rfl rfl
  supervised h := ⟨fun x hx => by
    rcases mem_insertEntry.mp hx with rfl | hx
    · exact hrecords
    · exact h.records x hx, h.mirror⟩
  streams h := h.insert rfl rfl rfl hfree hnew hlegal hown hunjoined
  ring := id
  links _ := rfl

theorem claimEffect_steady (t : Trib) (index cls : Byte) (s : State) : Steady s (claimEffect t index cls s).state := by
  unfold claimEffect
  split
  · exact .refl s
  rename_i c _
  split
  · exact .refl s
  rename_i hindex
  have hi := claimIndexRefused_false (by simpa using hindex)
  split
  case h_1 hfind =>
    split
    · exact .refl s
    case isFalse hfree =>
      exact .of_insert hfree hfind (EntryLegal.make_claimed hi t c)
        (fun he => hi.1 (congrArg StreamId.index he)) rfl (.of_none rfl)
  case h_2 e hfind =>
    split
    · exact .refl s
    rename_i hunjoined
    split
    case h_1 =>
      refine .of_change (fun x hx hlegal => ?_) fun x x' hx' => by cases hx'; exact .inl rfl
      have hid := findEntry_id hx
      have hxe : x = e := Option.some.inj (hx.symm.trans hfind)
      exact .to_some rfl (hlegal.claimed (by rw [hid]; rfl) (by rw [hid]; exact hi.1)
        (by rw [hxe]; simpa using hunjoined) c) rfl
    case h_2 p _ =>
      split
      · exact .refl s
      · split <;> exact .refl s

theorem releaseEffect_steady (t : Trib) (index : Byte) (s : State) : Steady s (releaseEffect t index s).state := by
  unfold releaseEffect
  split
  · exact .refl s
  split
  · exact .refl s
  rename_i e hfind
  split
  case isFalse => exact .refl s
  case isTrue hpub =>
    refine .of_change (fun x hx hlegal => ?_) fun x x' hx' => ?_
    · have hxe : x = e := Option.some.inj (hx.symm.trans hfind)
      exact .unpublish hlegal (Entry.publishedBy_trib_mirror (hxe ▸ hpub))
    · refine (Entry.settle_sup hx').imp_right fun ⟨hs, hm⟩ => ⟨hs, ?_⟩
      have hempty : x.members = Members.empty := hm
      rw [hempty]
      rfl

theorem leaveEffect_steady (t : Trib) (id : StreamId) (s : State) : Steady s (leaveEffect t id s).state := by
  unfold leaveEffect
  split
  · exact .refl s
  split
  · exact .refl s
  split
  case isFalse => exact .refl s
  case isTrue =>
    refine .of_change (fun x _ hlegal => .leave hlegal t) fun x x' hx' => ?_
    refine (Entry.settle_sup hx').imp_right fun ⟨hs, hm⟩ => ⟨hs, ?_⟩
    have hempty : x.members.put (.trib t) false = Members.empty := hm
    rw [← Members.put_trib_mirror x.members t false, hempty]
    rfl

/-! ### Joining (R26 to R30) -/

/-- A subscriber set with a place set is not empty. -/
theorem Members.put_true_ne_empty (m : Members) (x : Holder) : m.put x true ≠ Members.empty := by
  intro h
  have := (Members.eq_empty_iff _).mp h x
  rw [Members.has_put_self] at this
  cases this

/-- An entry that a subscriber has joined with values P and M (R27, R30). -/
def Entry.joined (x : Holder) (p m : Nat) (e : Entry) : Entry :=
  { e with members := e.members.put x true, sup := e.sup.map (Supervision.tighten p m) }

/-- A join of an entry that is there changes it. -/
theorem joinTable_of_some {id : StreamId} {table : List Entry} {e : Entry} (h : findEntry id table = some e)
    (own : Bool) (x : Holder) (p m : Nat) :
    joinTable own id x p m table = changeEntry id (fun e => some (e.joined x p m)) table := by
  unfold joinTable
  rw [h]
  rfl

/-- A join of an entry that is not there makes it. -/
theorem joinTable_of_none {id : StreamId} {table : List Entry} (h : findEntry id table = none) (own : Bool) (x : Holder)
    (p m : Nat) :
    joinTable own id x p m table
      = insertEntry (Entry.make id .general none (Members.empty.put x true)
          (if own then none else some (Supervision.initial p m))) table := by
  unfold joinTable
  rw [h]

/-- A legal entry that a tributary which does not publish it joins, or a foreign one that MIRROR joins, is legal. -/
theorem EntryLegal.joined {ownBay : Byte} {e : Entry} (h : EntryLegal ownBay e) {x : Holder} (hown : e.id ≠ ⟨ownBay, 0⟩)
    (hapart : ∀ t, x = .trib t → e.publishedBy x = false) (hmirror : x = .mirror → e.id.bay ≠ ownBay) (p m : Nat) :
    EntryLegal ownBay (e.joined x p m) := by
  refine ⟨h.index, .inr (Members.put_true_ne_empty _ _), by simpa [Entry.joined] using h.supervised,
    h.foreignUnpublished, h.contact, fun he => absurd he hown, fun hb => ?_, fun t ht => ?_⟩
  · rcases x with t | _
    · exact h.ownUnmirrored hb
    · exact absurd hb (hmirror rfl)
  · by_cases hx : x = .trib t
    · have := hapart t hx
      rw [hx] at this
      exact absurd ht (by simpa [Entry.joined, Entry.publishedBy] using this)
    · exact (Members.has_put_ne _ (Ne.symm hx)).trans (h.apart t ht)

/-- A new entry made with its first subscriber is legal (R28, R32). -/
theorem EntryLegal.make_joined {ownBay : Byte} {id : StreamId} (hi : id.index.toNat ≤ 63) {x : Holder}
    (hown : id ≠ ⟨ownBay, 0⟩) (hmirror : x = .mirror → id.bay ≠ ownBay) {sup : Option Supervision}
    (hsup : sup.isSome = true ↔ id.bay ≠ ownBay) :
    EntryLegal ownBay (Entry.make id .general none (Members.empty.put x true) sup) := by
  refine ⟨hi, .inr (Members.put_true_ne_empty _ _), hsup, fun _ => rfl, ?_, fun he => absurd he hown, fun hb => ?_,
    fun t ht => ?_⟩
  · exact iff_of_false hown (by simp [Entry.make, Entry.publishedBy])
  · rcases x with t | _
    · rfl
    · exact absurd hb (hmirror rfl)
  · simp [Entry.make, Entry.publishedBy] at ht

theorem Supervision.tighten_skew (p m : Nat) (sup : Supervision) : (sup.tighten p m).skew = sup.skew := by
  unfold Supervision.tighten
  split <;> rfl

@[simp] theorem Supervision.tighten_health (p m : Nat) (sup : Supervision) : (sup.tighten p m).health = sup.health := by
  unfold Supervision.tighten
  split <;> rfl

/-- The records a join leaves are legal (R28, R30). -/
theorem RecordsLegal.tighten {limit : Nat} {e e' : Entry} (h : RecordsLegal limit e) {p m : Nat}
    (hp : 50 ≤ p ∧ p ≤ 16777215) (hm : 2 ≤ m ∧ m ≤ 15) (hs : e'.sup = e.sup.map (Supervision.tighten p m)) :
    RecordsLegal limit e' := by
  intro sup hsup
  rw [hs] at hsup
  obtain ⟨old, hold, rfl⟩ := Option.map_eq_some_iff.mp hsup
  rw [Supervision.tighten_skew]
  exact ⟨Supervision.tighten_legal (h old hold).1 hp hm, (h old hold).2⟩

theorem RecordsLegal.initial {limit : Nat} {e : Entry} {p m : Nat} (hp : 50 ≤ p ∧ p ≤ 16777215) (hm : 2 ≤ m ∧ m ≤ 15)
    (hs : ∀ sup ∈ e.sup, sup = Supervision.initial p m) : RecordsLegal limit e := by
  intro sup hsup
  rw [hs sup hsup]
  exact ⟨Supervision.initial_legal hp hm, rfl⟩

/-- Every entry's records are legal after a join with values in range. -/
theorem records_joinTable {limit : Nat} {table : List Entry} (h : ∀ e ∈ table, RecordsLegal limit e) (own : Bool)
    (id : StreamId) (x : Holder) {p m : Nat} (hp : 50 ≤ p ∧ p ≤ 16777215) (hm : 2 ≤ m ∧ m ≤ 15) :
    ∀ e ∈ joinTable own id x p m table, RecordsLegal limit e := by
  unfold joinTable
  split
  · intro e he
    obtain ⟨y, hy, ⟨-, rfl⟩ | ⟨-, hfe⟩⟩ := mem_changeEntry.mp he
    · exact h e hy
    · cases hfe
      exact (h y hy).tighten hp hm rfl
  · intro e he
    rcases mem_insertEntry.mp he with rfl | he
    · refine .initial hp hm fun sup hs => ?_
      simp only [Entry.make] at hs
      split at hs <;> cases hs
      rfl
    · exact h e he

/-- What test 1 of a JOIN lets through (R26). -/
theorem joinRefused_false {t : Trib} {id : StreamId} {p m : Nat} {s : State} (h : joinRefused t id p m s = false) :
    id.index.toNat ≤ 63 ∧ (50 ≤ p ∧ p ≤ 16777215) ∧ (2 ≤ m ∧ m ≤ 15) ∧ id ≠ ⟨s.ownBay, 0⟩
      ∧ (id.bay = s.ownBay → ∀ e, s.find id = some e → e.publishedBy (.trib t) = false) := by
  simp only [joinRefused, within, Bool.or_eq_false_iff, decide_eq_false_iff_not, not_lt, Bool.not_eq_false',
    decide_eq_true_eq, Bool.and_eq_false_iff, beq_eq_false_iff_ne, ne_eq] at h
  obtain ⟨⟨⟨⟨⟨-, hi⟩, hp⟩, hm⟩, hpub⟩, hzero⟩ := h
  refine ⟨hi, hp, hm, fun he => ?_, fun hb e hf => ?_⟩
  · rw [he] at hzero
    simp at hzero
  · rcases hpub with hn | hn
    · exact absurd hb hn
    · simpa [hf] using hn

theorem joinEffect_steady (t : Trib) (id : StreamId) (p m : Nat) (s : State) :
    Steady s (joinEffect t id p m s).state := by
  unfold joinEffect
  split
  · exact .refl s
  rename_i hrefused
  obtain ⟨hi, hp, hm, hown, hpub⟩ := joinRefused_false (by simpa using hrefused)
  split
  · exact .refl s
  rename_i hfull
  have hstreams : StreamsLegal s →
      StreamsLegal { s with table := joinTable (id.bay == s.ownBay) id (.trib t) p m s.table } := by
    intro h
    rcases hf : findEntry id s.table with _ | e
    · have hfree : freeSlots s.table ≠ 0 := fun h0 => hfull ⟨hf, h0⟩
      rw [joinTable_of_none hf]
      refine h.insert rfl rfl rfl hfree hf (EntryLegal.make_joined hi hown (by simp) ?_) hown rfl
      by_cases hb : id.bay = s.ownBay <;> simp [hb]
    · rw [joinTable_of_some hf]
      refine h.pass rfl (changeEntry_eq_filterMap ..) (fun x hx hlegal =>
        Passed.change (f := fun e => some (e.joined (.trib t) p m)) hlegal fun hid => ?_)
        (fun x hx _ x' hx' => ?_) rfl rfl rfl
      · refine .to_some rfl (hlegal.joined (by rw [hid]; exact hown) (fun u _ => ?_) (by simp) p m) rfl
        have hfound : findEntry id s.table = some x := hid ▸ findEntry_of_mem h.table.ordered hx
        by_cases hb : id.bay = s.ownBay
        · exact hpub hb x hfound
        · simp [Entry.publishedBy, hlegal.foreignUnpublished (by rw [hid]; exact hb)]
      · split at hx' <;> cases hx'
        · simp [Entry.joined, Function.comp_def]
        · rfl
  exact ⟨⟨fun h => h, fun h => h.congr rfl rfl rfl rfl,
    fun h => ⟨records_joinTable h.records _ id _ hp hm, h.mirror⟩, hstreams, fun h => h⟩, fun _ => rfl⟩

end Sys2Proof.Machine
end

section
namespace Sys2Proof.Machine

/-! ### The contact mirror hears of a stream (R75, R161) -/

/-- The mirror `m'` after `m` has heard of the contact stream of `bay`: nothing but the source record of that bay and
the levels of the outputs bound to it may have changed. -/
structure Mirror.Heard (bay : Byte) (m m' : Mirror) : Prop where
  publish : m'.publish = m.publish
  legal : MirrorLegal m → MirrorLegal m'
  binding : ∀ i, (m'.outputs.get i).binding = (m.outputs.get i).binding
  elsewhere : ∀ i, (∀ b ∈ (m.outputs.get i).binding, b.bay ≠ bay) → m'.outputs.get i = m.outputs.get i
  sources : ∃ f : Source → Source, (∀ r, (f r).bay = r.bay) ∧ (∀ r, r.bay ≠ bay → f r = r)
    ∧ m'.sources = m.sources.map f

theorem Mirror.Heard.refl (bay : Byte) (m : Mirror) : Mirror.Heard bay m m :=
  ⟨rfl, fun h => h, fun _ => rfl, fun _ _ => rfl, fun r => r, fun _ => rfl, fun _ _ => rfl, by simp⟩

theorem Mirror.Heard.trans {bay : Byte} {m m' m'' : Mirror} (h : Mirror.Heard bay m m') (k : Mirror.Heard bay m' m'') :
    Mirror.Heard bay m m'' := by
  obtain ⟨f, hfb, hfo, hfs⟩ := h.sources
  obtain ⟨g, hgb, hgo, hgs⟩ := k.sources
  refine ⟨k.publish.trans h.publish, k.legal ∘ h.legal, fun i => (k.binding i).trans (h.binding i), fun i hi => ?_,
    g ∘ f, fun r => (hgb _).trans (hfb r), fun r hr => ?_, by rw [hgs, hfs, List.map_map]⟩
  · rw [k.elsewhere i (by rw [h.binding]; exact hi), h.elsewhere i hi]
  · rw [Function.comp_apply, hfo r hr, hgo r hr]

/-- Driving the outputs of a bay leaves the others as they were. -/
theorem Mirror.drive_elsewhere (bay : Byte) (f : Binding → Bool → Bool) (m : Mirror) (i : Fin 8)
    (hi : ∀ b ∈ (m.outputs.get i).binding, b.bay ≠ bay) : (m.drive bay f).outputs.get i = m.outputs.get i := by
  simp only [Mirror.drive, Oct.get_ofFn]
  rcases hb : (m.outputs.get i).binding with _ | b
  · rfl
  · exact if_neg (hi b (by rw [hb]; rfl))

theorem Mirror.Heard.drive (bay : Byte) (f : Binding → Bool → Bool) (m : Mirror) : Mirror.Heard bay m (m.drive bay f) :=
  ⟨rfl, fun h => Mirror.drive_legal h bay f, Mirror.drive_binding bay f m, Mirror.drive_elsewhere bay f m,
    fun r => r, fun _ => rfl, fun _ _ => rfl, by simp [Mirror.drive]⟩

/-- The source record of a bay changed, the bay kept. -/
theorem Mirror.Heard.source (bay : Byte) {f : Source → Source} (hf : ∀ r, (f r).bay = r.bay) (m : Mirror) :
    Mirror.Heard bay m { m with sources := changeSource bay f m.sources } :=
  ⟨rfl, fun h => ⟨h.debounce, h.refresh, h.runs, h.timer, h.changed, h.unboundLow⟩, fun _ => rfl, fun _ _ => rfl,
    fun r => if r.bay = bay then f r else r, fun r => by dsimp only; split <;> simp [hf], fun r hr => if_neg hr, rfl⟩

theorem Mirror.Heard.hearHealth (bay : Byte) (v : Health) (m : Mirror) : Mirror.Heard bay m (m.hearHealth bay v) :=
  .source bay (f := fun r => { r with health := v }) (fun _ => rfl) m

theorem Mirror.Heard.hearLost (bay : Byte) (m : Mirror) : Mirror.Heard bay m (m.hearLost bay) :=
  (Mirror.Heard.source bay (f := fun r => { r with health := .lost, data := none }) (fun _ => rfl) m).trans
    (.drive bay _ _)

theorem Mirror.Heard.hearData (bay : Byte) (v : Verdict) (payload : List Byte) (m : Mirror) :
    Mirror.Heard bay m (m.hearData bay v payload) := by
  unfold Mirror.hearData
  split
  · exact .refl bay m
  · rename_i st mask _ _ _ _
    exact (Mirror.Heard.source bay (f := fun r => { r with data := some ⟨st, mask⟩ }) (fun _ => rfl) m).trans
      (.drive bay _ _)
  · exact .refl bay m

/-- The outputs are bound to the bays they were bound to. -/
theorem Mirror.Heard.bound {bay : Byte} {m m' : Mirror} (h : Mirror.Heard bay m m') : m'.Bound = m.Bound := by
  funext b
  simp only [Mirror.Bound, mem_boundBays, h.binding]

/-- A source record found after the mirror has heard of another bay is the one found before. -/
theorem Mirror.Heard.findSource {bay : Byte} {m m' : Mirror} (h : Mirror.Heard bay m m') (b : Byte) :
    ∃ f : Source → Source, (∀ r, (f r).bay = r.bay) ∧ (∀ r, r.bay ≠ bay → f r = r)
      ∧ m'.sources = m.sources.map f ∧ findSource b m'.sources = (findSource b m.sources).map f := by
  obtain ⟨f, hfb, hfo, hfs⟩ := h.sources
  refine ⟨f, hfb, hfo, hfs, ?_⟩
  unfold Machine.findSource
  rw [hfs, List.find?_map]
  congr 2
  funext r
  simp [hfb]

/-- What the contact mirror has heard of `bay` when the health of its stream becomes `v`: the source record holds it,
and for WAITING and LOST it has no data and the outputs show their safe levels (R161). -/
structure Mirror.Informed (bay : Byte) (v : Health) (m : Mirror) : Prop where
  health : ∀ r ∈ m.sources, r.bay = bay → r.health = v
  noData : v = .waiting ∨ v = .lost → ∀ r ∈ m.sources, r.bay = bay → r.data = none
  safe : ∀ i, ∀ b ∈ (m.outputs.get i).binding, b.bay = bay → (v = .waiting ∨ v = .lost ∧ b.policy = .safe) →
    (m.outputs.get i).level = b.safeLevel

theorem mem_changeSource {bay : Byte} {f : Source → Source} {sources : List Source} {r' : Source} :
    r' ∈ changeSource bay f sources ↔ ∃ r ∈ sources, (if r.bay = bay then f r else r) = r' := List.mem_map

/-- A heard health that is neither WAITING nor LOST. -/
theorem Mirror.Informed.hearHealth (bay : Byte) {v : Health} (hv : v ≠ .waiting ∧ v ≠ .lost) (m : Mirror) :
    Mirror.Informed bay v (m.hearHealth bay v) where
  health r' hr' hb := by
    obtain ⟨r, -, rfl⟩ := mem_changeSource.mp hr'
    by_cases h : r.bay = bay
    · simp [h]
    · simp [h] at hb
  noData h := by simp [hv] at h
  safe i b hb hbay h := by simp [hv] at h

/-- The entry into LOST (R161). -/
theorem Mirror.Informed.hearLost (bay : Byte) (m : Mirror) : Mirror.Informed bay .lost (m.hearLost bay) where
  health r' hr' hb := by
    obtain ⟨r, -, rfl⟩ := mem_changeSource.mp hr'
    by_cases h : r.bay = bay
    · simp [h]
    · simp [h] at hb
  noData _ r' hr' hb := by
    obtain ⟨r, -, rfl⟩ := mem_changeSource.mp hr'
    by_cases h : r.bay = bay
    · simp [h]
    · simp [h] at hb
  safe i b hb hbay h := by
    have hpolicy : b.policy = .safe := by simpa using h
    unfold Mirror.hearLost at hb ⊢
    rw [Mirror.drive_binding] at hb
    rw [Mirror.drive_level, hb]
    simp only [hbay, if_true, hpolicy]

/-- A mirror that is in agreement with its stream's entry is informed. -/
theorem Mirror.Informed.of_linked {s : State} (h : StreamsLegal s) {b : Byte} {v : Health}
    (hv : v = entryHealth b s.table) : Mirror.Informed b v s.mirror where
  health r hr hb := by rw [h.linked.health r hr, hb, hv]
  noData hv' r hr hb := by
    have hh := h.linked.health r hr
    rw [hb, ← hv] at hh
    exact h.linked.noData r hr (by rw [hh]; exact hv')
  safe i bd hbd hb hv' := by
    have hbound : bd.bay ∈ boundBays s.mirror.outputs := mem_boundBays.mpr ⟨i, bd, hbd, rfl⟩
    obtain ⟨r, hr⟩ := Option.isSome_iff_exists.mp ((h.linked.sources bd.bay).mpr hbound)
    have hrb := findSource_bay hr
    have hh := h.linked.health r (List.mem_of_find?_eq_some hr)
    rw [hrb, hb, ← hv] at hh
    exact h.safe i bd hbd r hr (by rw [hh]; exact hv')

/-- Data change no health; while the stream is heard the mirror stays informed. -/
theorem Mirror.Informed.hearData {bay : Byte} {v : Health} {m : Mirror} (h : Mirror.Informed bay v m)
    (hv : v ≠ .waiting ∧ v ≠ .lost) (verdict : Verdict) (payload : List Byte) :
    Mirror.Informed bay v (m.hearData bay verdict payload) := by
  refine ⟨fun r' hr' hb => ?_, fun hn => by simp [hv] at hn, fun i b _ _ hn => by simp [hv] at hn⟩
  unfold Mirror.hearData at hr'
  split at hr'
  · exact h.health r' hr' hb
  · obtain ⟨r, hr, rfl⟩ := mem_changeSource.mp hr'
    by_cases hrb : r.bay = bay
    · simpa [hrb] using h.health r hr hrb
    · simp [hrb] at hb
  · exact h.health r' hr' hb

/-- A change of the records of an entry, everything else of it kept but its class and its counters. -/
structure Entry.Rerecorded (f : Entry → Entry) (sup : Supervision) : Prop where
  id : ∀ e, (f e).id = e.id
  publisher : ∀ e, (f e).publisher = e.publisher
  members : ∀ e, (f e).members = e.members
  sup : ∀ e, (f e).sup = some sup

theorem Passed.rerecorded {ownBay : Byte} {f : Entry → Entry} {sup : Supervision} (hf : Entry.Rerecorded f sup)
    {e : Entry} (h : EntryLegal ownBay e) (hsup : e.sup.isSome = true) : Passed ownBay e (some (f e)) :=
  .of_same h (hf.id e) (by rw [hf.publisher]) (hf.members e) (by rw [hf.sup, hsup]; rfl)

section
variable {table : List Entry} {id : StreamId} {f : Entry → Entry} {sup : Supervision} {e : Entry}

/-- New records of one entry are the health of its bay. -/
theorem Entry.Rerecorded.entryHealth_self (hf : Entry.Rerecorded f sup) (hfind : findEntry id table = some e)
    (hzero : id.index = 0) : entryHealth id.bay (changeEntry id (fun e => some (f e)) table) = sup.health := by
  have hid : (⟨id.bay, 0⟩ : StreamId) = id := by rw [← hzero]
  unfold entryHealth
  rw [findEntry_changeEntry hf.id, hid, if_pos rfl, hfind]
  simp [hf.sup]

theorem Entry.Rerecorded.entryHealth_other (hf : Entry.Rerecorded f sup) {b : Byte} (hb : b ≠ id.bay) :
    entryHealth b (changeEntry id (fun e => some (f e)) table) = entryHealth b table := by
  apply entryHealth_congr
  rw [findEntry_changeEntry hf.id, if_neg fun he => hb (congrArg StreamId.bay he)]

/-- A change of the records of one entry is a pass over the table that keeps every entry legal. -/
theorem Entry.Rerecorded.passed (hf : Entry.Rerecorded f sup) {ownBay : Byte}
    (ho : table.Pairwise fun x y => x.id.key < y.id.key) (hentries : ∀ x ∈ table, EntryLegal ownBay x)
    (hfind : findEntry id table = some e) (hsup : e.sup.isSome = true) :
    ∀ x ∈ table, Passed ownBay x (if x.id = id then some (f x) else some x) := fun x hx => by
  refine Passed.change (f := fun x => some (f x)) (hentries x hx) fun hid => ?_
  have hxe : x = e := Option.some.inj ((hid ▸ findEntry_of_mem ho hx).symm.trans hfind)
  exact .rerecorded hf (hentries x hx) (by rw [hxe]; exact hsup)

end

section
variable {bay : Byte} {m m' : Mirror}

/-- The source records of the other bays are those from before. -/
theorem Mirror.Heard.mem_sources (h : Mirror.Heard bay m m') {r : Source} (hr : r ∈ m'.sources) (hb : r.bay ≠ bay) :
    r ∈ m.sources := by
  obtain ⟨g, hgbay, hgother, hgsources⟩ := h.sources
  rw [hgsources] at hr
  obtain ⟨r₀, hr₀, rfl⟩ := List.mem_map.mp hr
  rw [hgbay] at hb
  rwa [hgother r₀ hb]

theorem Mirror.Heard.findSource_other (h : Mirror.Heard bay m m') {b : Byte} (hb : b ≠ bay) {r : Source}
    (hr : r ∈ Machine.findSource b m'.sources) : r ∈ Machine.findSource b m.sources := by
  obtain ⟨g, hgbay, hgother, -, hfind⟩ := h.findSource b
  rw [hfind] at hr
  obtain ⟨r₀, hr₀, rfl⟩ := Option.map_eq_some_iff.mp hr
  rwa [hgother r₀ (by rw [findSource_bay hr₀]; exact hb)]

/-- The source records stay legal when the mirror has heard the health that the entry of `bay` now holds. -/
theorem SourcesLegal.heard {bound : Byte → Prop} {table table' : List Entry} {v : Health}
    (hsources : SourcesLegal bound table m.sources) (h : Mirror.Heard bay m m') (hinformed : Mirror.Informed bay v m')
    (hhere : entryHealth bay table' = v) (hthere : ∀ b, b ≠ bay → entryHealth b table' = entryHealth b table) :
    SourcesLegal bound table' m'.sources where
  found b := by
    obtain ⟨g, -, -, -, hfind⟩ := h.findSource b
    rw [hfind, Option.isSome_map]
    exact hsources.found b
  ordered := by
    obtain ⟨g, hgbay, -, hgsources⟩ := h.sources
    rw [hgsources, List.pairwise_map]
    simpa only [hgbay] using hsources.ordered
  health r hr := by
    by_cases hb : r.bay = bay
    · rw [hinformed.health r hr hb, hb, hhere]
    · rw [hthere r.bay hb]
      exact hsources.health r (h.mem_sources hr hb)
  noData r hr hv := by
    by_cases hb : r.bay = bay
    · exact hinformed.noData (by rwa [hinformed.health r hr hb] at hv) r hr hb
    · exact hsources.noData r (h.mem_sources hr hb) hv

end

/-- The outputs show their safe levels where they must, when the mirror has heard of one bay (R161). -/
theorem SafeLevels.heard {s u : State} {bay : Byte} {v : Health} (hsafe : SafeLevels s)
    (h : Mirror.Heard bay s.mirror u.mirror) (hinformed : Mirror.Informed bay v u.mirror) : SafeLevels u := by
  intro i b hb r hr hv
  by_cases hbb : b.bay = bay
  · refine hinformed.safe i b hb hbb ?_
    rwa [hinformed.health r (List.mem_of_find?_eq_some hr) ((findSource_bay hr).trans hbb)] at hv
  · rw [h.binding] at hb
    have hsame : u.mirror.outputs.get i = s.mirror.outputs.get i := h.elsewhere i fun b' hb' => by
      rw [Option.mem_unique hb' hb]
      exact hbb
    rw [hsame]
    exact hsafe i b hb r (h.findSource_other hbb hr) hv

/-- The mirror and the table stay in agreement when the records of an entry that MIRROR has joined change, and the
mirror has heard of the health (R75). -/
theorem StreamsLegal.heard {s u : State} (h : StreamsLegal s) {id : StreamId} {f : Entry → Entry} {sup : Supervision}
    (hbay : u.ownBay = s.ownBay) (htable : u.table = changeEntry id (fun e => some (f e)) s.table)
    (hf : Entry.Rerecorded f sup) {e : Entry} (hfind : findEntry id s.table = some e) (hsup : e.sup.isSome = true)
    (hzero : id.index = 0) (hheard : Mirror.Heard id.bay s.mirror u.mirror)
    (hinformed : Mirror.Informed id.bay sup.health u.mirror) : StreamsLegal u := by
  rw [streamsLegal_iff] at h ⊢
  obtain ⟨hsize, htab, hsources, hbindings, hsafe⟩ := h
  refine ⟨?_, ?_, ?_, fun i b hb => ?_, hsafe.heard hheard hinformed⟩
  · rw [htable]
    exact le_trans (length_changeEntry_le ..) hsize
  · rw [hbay, hheard.bound, hheard.publish, htable, changeEntry_eq_filterMap]
    exact htab.pass (hf.passed htab.ordered htab.entries hfind hsup)
  · rw [hheard.bound, htable]
    exact hsources.heard hheard hinformed (hf.entryHealth_self hfind hzero) fun b hb => hf.entryHealth_other hb
  · rw [hheard.binding] at hb
    rw [hbay]
    exact hbindings i b hb

/-! ### Arrivals and silence expiries (R43, R68) -/

/-- What the contact mirror hears of an arrival: the health where it changes, and the data where the verdict delivers. -/
def Mirror.hearArrival (a : Arrival) (before after : Health) (v : Verdict) (m : Mirror) : Mirror :=
  let told := if after ≠ before then m.hearHealth a.id.bay after else m
  if v.delivers then told.hearData a.id.bay v a.payload else told

/-- The ports of `u` have the links of those of `s`, and are legal when those are. -/
structure PortsSteady (s u : State) : Prop where
  legal : PortsLegal s → PortsLegal u
  links : ∀ t : Trib, (u.ports.get t).link = (s.ports.get t).link

theorem Steady.portsSteady {s u : State} (h : Steady s u) : PortsSteady s u := ⟨h.ports, h.links⟩

theorem PortsSteady.of_eq {s u : State} (h : u.ports = s.ports) : PortsSteady s u :=
  ⟨fun hs => hs.congr h, fun t => by rw [h]⟩

theorem PortsSteady.trans {s u v : State} (h : PortsSteady s u) (k : PortsSteady u v) : PortsSteady s v :=
  ⟨k.legal ∘ h.legal, fun t => (k.links t).trans (h.links t)⟩

/-- A further operation that may take place. -/
theorem PortsSteady.ite {s u v : State} (h : PortsSteady s u) {c : Prop} {_ : Decidable c} (k : PortsSteady u v) :
    PortsSteady s (if c then v else u) := by
  split
  · exact h.trans k
  · exact h

theorem State.tellHealth_eq (id : StreamId) (m : Members) (h : Health) (s : State) :
    s.tellHealth id m h = { s.raiseMembers .health m with
      mirror := if m.mirror then s.mirror.hearHealth id.bay h else s.mirror } := by
  unfold State.tellHealth
  dsimp only
  split <;> rfl

theorem State.handRecord_eq (a : Arrival) (v : Verdict) (h : Health) (m : Members) (s : State) :
    s.handRecord a v h m = { s.offerDataTo m (a.cls == .urgent) (a.record v h) with
      mirror := if m.mirror then s.mirror.hearData a.id.bay v a.payload else s.mirror } := by
  unfold State.handRecord
  dsimp only
  split <;> rfl

theorem PortsSteady.tellHealth (id : StreamId) (m : Members) (h : Health) (s : State) :
    PortsSteady s (s.tellHealth id m h) := by
  rw [State.tellHealth_eq]
  exact (s.raiseMembers_steady .health m).portsSteady.trans (.of_eq rfl)

theorem PortsSteady.handRecord (a : Arrival) (v : Verdict) (h : Health) (m : Members) (s : State) :
    PortsSteady s (s.handRecord a v h m) := by
  rw [State.handRecord_eq]
  exact (s.offerDataTo_steady m _ _).portsSteady.trans (.of_eq rfl)

/-- An arrival offered to a supervised entry changes the table, the ports and, where MIRROR is a member, the mirror. -/
theorem State.arrive_eq {a : Arrival} {s : State} {e : Entry} {sup : Supervision} (he : s.find a.id = some e)
    (hs : e.sup = some sup) :
    s.arrive a = { s with
      table := changeEntry a.id (fun e => some (e.arrive s.profile.skewLimit a sup)) s.table
      ports := (s.arrive a).ports
      mirror :=
        if e.members.mirror then
          s.mirror.hearArrival a sup.health (sup.arrive s.profile.skewLimit a.seq a.line a.time).health
            (sup.window.judge a.seq).verdict
        else s.mirror } := by
  unfold State.arrive Mirror.hearArrival
  simp only [he, hs, State.tellHealth_eq, State.handRecord_eq]
  split_ifs <;> rfl

theorem State.arrive_ports (a : Arrival) (s : State) : PortsSteady s (s.arrive a) := by
  unfold State.arrive
  split
  · split
    · dsimp only
      refine .ite (.ite (.ite (.ite ?_ (.tellHealth ..)) ?_) ?_) (.handRecord ..)
      · exact .of_eq rfl
      · exact (State.offerNoticeTo_steady ..).portsSteady
      · exact (State.raiseMembers_steady ..).portsSteady
    · exact .of_eq rfl
  · exact .of_eq rfl

/-- The expiry of a silence timer changes the table, the ports and, where MIRROR is a member, the mirror. -/
theorem State.silenceExpire_eq (id : StreamId) (x : Line) (e : Entry) (sup : Supervision) (s : State) :
    s.silenceExpire id x e sup = { s with
      table := changeEntry id (fun e => some { e with sup := some (sup.expire x) }) s.table
      ports := (s.silenceExpire id x e sup).ports
      mirror :=
        if e.members.mirror then
          if (sup.expire x).health = .lost then s.mirror.hearLost id.bay
          else s.mirror.hearHealth id.bay (sup.expire x).health
        else s.mirror } := by
  unfold State.silenceExpire
  simp only [State.tellHealth_eq]
  split_ifs <;> rfl

theorem State.silenceExpire_ports (id : StreamId) (x : Line) (e : Entry) (sup : Supervision) (s : State) :
    PortsSteady s (s.silenceExpire id x e sup) := by
  unfold State.silenceExpire
  dsimp only
  split
  · refine .ite (.trans (.trans (.ite ?_ ?_) (State.offerNoticeTo_steady ..).portsSteady)
      (State.raiseMembers_steady ..).portsSteady) (.of_eq rfl)
    · exact .of_eq rfl
    · exact (State.raiseMembers_steady ..).portsSteady
  · refine .trans ?_ (.tellHealth ..)
    exact .of_eq rfl

/-- After an arrival a stream is heard (R42, R66). -/
theorem Supervision.arrive_health (limit : Nat) (s : SeqNo) (x : Line) (t : Time) (sup : Supervision) :
    (sup.arrive limit s x t).health ≠ .waiting ∧ (sup.arrive limit s x t).health ≠ .lost :=
  Supervision.hear_health x t sup

theorem Entry.arrive_rerecorded (limit : Nat) (a : Arrival) (sup : Supervision) :
    Entry.Rerecorded (Entry.arrive limit a sup) (sup.arrive limit a.seq a.line a.time) :=
  ⟨fun _ => rfl, fun _ => rfl, fun _ => rfl, fun _ => rfl⟩

/-- Records of an entry replaced by legal ones. -/
theorem records_changeEntry {limit : Nat} {table : List Entry} (h : ∀ e ∈ table, RecordsLegal limit e) {id : StreamId}
    {f : Entry → Entry} {sup : Supervision} (hf : Entry.Rerecorded f sup)
    (hsup : SupervisionLegal sup ∧ sup.skew.alarm = alarmOf limit sup.skew.e8) :
    ∀ e ∈ changeEntry id (fun e => some (f e)) table, RecordsLegal limit e := by
  intro e he
  obtain ⟨y, hy, ⟨-, rfl⟩ | ⟨-, hfe⟩⟩ := mem_changeEntry.mp he
  · exact h e hy
  · cases hfe
    intro sup' hs
    rw [hf.sup] at hs
    cases hs
    exact hsup

/-- Records of an entry replaced, where MIRROR is no member of it. -/
theorem StreamsLegal.unheard {s u : State} (h : StreamsLegal s) {id : StreamId} {f : Entry → Entry} {sup : Supervision}
    (hbay : u.ownBay = s.ownBay) (htable : u.table = changeEntry id (fun e => some (f e)) s.table)
    (hmirror : u.mirror = s.mirror) (hf : Entry.Rerecorded f sup) {e : Entry} (hfind : findEntry id s.table = some e)
    (hsup : e.sup.isSome = true) (hno : e.members.mirror = false) : StreamsLegal u := by
  have hsame : ∀ x ∈ s.table, x.id = id → x = e := fun x hx hid =>
    Option.some.inj ((hid ▸ findEntry_of_mem h.table.ordered hx).symm.trans hfind)
  refine h.pass hbay htable (fun x hx hlegal => Passed.change (f := fun x => some (f x)) hlegal fun hid => ?_)
    (fun x hx hm x' hx' => ?_) (by rw [hmirror]) (by rw [hmirror]) (by rw [hmirror])
  · exact .rerecorded hf hlegal (by rw [hsame x hx hid]; exact hsup)
  · split at hx'
    case isTrue hid =>
      rw [hsame x hx hid, hno] at hm
      cases hm
    case isFalse =>
      cases hx'
      rfl

/-- What MIRROR has joined is the contact stream of its bay. -/
theorem StreamsLegal.index_of_mirror {s : State} (h : StreamsLegal s) {id : StreamId} {e : Entry}
    (hfind : findEntry id s.table = some e) (hm : e.members.mirror = true) : id.index = 0 := by
  rw [← findEntry_id hfind]
  exact ((h.linked.members e (findEntry_mem hfind)).mp hm).1

/-- What an arrival tells the mirror changes no more than the bay's source and outputs. -/
theorem Mirror.Heard.hearArrival (a : Arrival) (before after : Health) (v : Verdict) (m : Mirror) :
    Mirror.Heard a.id.bay m (m.hearArrival a before after v) := by
  unfold Mirror.hearArrival
  have htold : Mirror.Heard a.id.bay m (if after ≠ before then m.hearHealth a.id.bay after else m) := by
    split
    · exact .hearHealth ..
    · exact .refl ..
  dsimp only
  split
  · exact htold.trans (.hearData ..)
  · exact htold

/-- The mirror is informed of the health after an arrival: it was of the health before (R75). -/
theorem Mirror.Informed.hearArrival {a : Arrival} {before after : Health} {m : Mirror}
    (h : Mirror.Informed a.id.bay before m) (hafter : after ≠ .waiting ∧ after ≠ .lost) (v : Verdict) :
    Mirror.Informed a.id.bay after (m.hearArrival a before after v) := by
  unfold Mirror.hearArrival
  have htold : Mirror.Informed a.id.bay after (if after ≠ before then m.hearHealth a.id.bay after else m) := by
    split
    case isTrue => exact .hearHealth _ hafter m
    case isFalse hsame => exact (not_not.mp hsame) ▸ h
  dsimp only
  split
  · exact htold.hearData hafter ..
  · exact htold

/-- The health of a supervised contact stream. -/
theorem entryHealth_of_find {id : StreamId} (hzero : id.index = 0) {table : List Entry} {e : Entry} {sup : Supervision}
    (hfind : findEntry id table = some e) (hsup : e.sup = some sup) : entryHealth id.bay table = sup.health := by
  have hid : (⟨id.bay, 0⟩ : StreamId) = id := by rw [← hzero]
  unfold entryHealth
  rw [hid, hfind]
  simp [hsup]

theorem State.arrive_steady (a : Arrival) (s : State) : Steady s (s.arrive a) := by
  rcases he : s.find a.id with _ | e
  · rw [show s.arrive a = s by simp only [State.arrive, he]]
    exact .refl s
  rcases hs : e.sup with _ | sup
  · rw [show s.arrive a = s by simp only [State.arrive, he, hs]]
    exact .refl s
  have heq := State.arrive_eq he hs
  have hports := s.arrive_ports a
  have hrec := Entry.arrive_rerecorded s.profile.skewLimit a sup
  refine ⟨⟨hports.legal, fun h => h.congr (by rw [heq]) (by rw [heq]) (by rw [heq]) (by rw [heq]), fun h => ?_,
    fun h => ?_, fun h => by rw [heq]; exact h⟩, hports.links⟩
  · obtain ⟨hlegal, halarm⟩ := h.records e (findEntry_mem he) sup hs
    rw [heq]
    refine ⟨records_changeEntry h.records hrec ⟨Supervision.arrive_legal hlegal .., Skew.arrive_alarm halarm ..⟩, ?_⟩
    dsimp only
    split
    · exact (Mirror.Heard.hearArrival ..).legal h.mirror
    · exact h.mirror
  · rw [heq]
    cases hm : e.members.mirror
    · exact h.unheard rfl rfl rfl hrec he (by rw [hs]; rfl) hm
    · have hzero := h.index_of_mirror he hm
      refine h.heard rfl rfl hrec he (by rw [hs]; rfl) hzero (.hearArrival ..) ?_
      exact (Mirror.Informed.of_linked h (entryHealth_of_find hzero he hs).symm).hearArrival
        (Supervision.arrive_health ..) _

/-- The expiry of a timer never leaves a stream WAITING (R68). -/
theorem Supervision.expire_ne_waiting (x : Line) (sup : Supervision) : (sup.expire x).health ≠ .waiting := by
  unfold Supervision.expire healthOf
  dsimp only
  repeat' split
  all_goals simp

/-- The alarm after an expiry is what an evaluation gives, when it was before (R80, R81). -/
theorem Supervision.expire_alarm {limit : Nat} {sup : Supervision} (h : sup.skew.alarm = alarmOf limit sup.skew.e8)
    (x : Line) : (sup.expire x).skew.alarm = alarmOf limit (sup.expire x).skew.e8 := by
  unfold Supervision.expire
  dsimp only
  split
  · rfl
  · exact h

theorem State.silenceExpire_steady {id : StreamId} {x : Line} {e : Entry} {sup : Supervision} {s : State}
    (he : s.find id = some e) (hs : e.sup = some sup) (hx : (sup.silence.get x).isSome = true) :
    Steady s (s.silenceExpire id x e sup) := by
  have heq := s.silenceExpire_eq id x e sup
  have hports := s.silenceExpire_ports id x e sup
  have hrec : Entry.Rerecorded (fun e => { e with sup := some (sup.expire x) }) (sup.expire x) :=
    ⟨fun _ => rfl, fun _ => rfl, fun _ => rfl, fun _ => rfl⟩
  refine ⟨⟨hports.legal, fun h => h.congr (by rw [heq]) (by rw [heq]) (by rw [heq]) (by rw [heq]), fun h => ?_,
    fun h => ?_, fun h => by rw [heq]; exact h⟩, hports.links⟩
  · obtain ⟨hlegal, halarm⟩ := h.records e (findEntry_mem he) sup hs
    rw [heq]
    refine ⟨records_changeEntry h.records hrec ⟨Supervision.expire_legal hlegal x hx, Supervision.expire_alarm halarm x⟩,
      ?_⟩
    dsimp only
    split_ifs
    · exact (Mirror.Heard.hearLost ..).legal h.mirror
    · exact (Mirror.Heard.hearHealth ..).legal h.mirror
    · exact h.mirror
  · rw [heq]
    cases hm : e.members.mirror
    · exact h.unheard rfl rfl rfl hrec he (by rw [hs]; rfl) hm
    · have hzero := h.index_of_mirror he hm
      by_cases hlost : (sup.expire x).health = .lost
      · refine h.heard rfl rfl hrec he (by rw [hs]; rfl) hzero ?_ ?_ <;> simp only [hlost, if_true]
        · exact .hearLost ..
        · exact .hearLost ..
      · refine h.heard rfl rfl hrec he (by rw [hs]; rfl) hzero ?_ ?_ <;> simp only [hlost, if_true, if_false]
        · exact .hearHealth ..
        · exact .hearHealth _ ⟨Supervision.expire_ne_waiting x sup, hlost⟩ _

end Sys2Proof.Machine
end

section
namespace Sys2Proof.Machine

/-! ### Frames received and beacons sent -/

theorem State.forward_steady (x : Line) (f : RingFrame) (s : State) : Steady s (s.forward x f) := by
  unfold State.forward
  split
  · exact s.countRing_steady _
  · exact s.offerLine_steady ..

theorem State.offerDelivery_steady (x : Line) (cls : StreamClass) (f : RingFrame) (s : State) :
    Steady s (s.offerDelivery x cls f) := by
  unfold State.offerDelivery
  split
  · exact s.arrive_steady _
  · exact s.countRing_steady _

theorem State.takeStream_steady (x : Line) (cls : StreamClass) (f : RingFrame) (s : State) :
    Steady s (s.takeStream x cls f) := by
  unfold State.takeStream
  split
  · exact s.countRing_steady _
  · exact (s.forward_steady x f).trans (State.offerDelivery_steady x cls f _)

theorem State.takeForeignBeacon_steady (x : Line) (budget interval state : Byte) (f : RingFrame) (s : State) :
    Steady s (s.takeForeignBeacon x budget interval state f) := by
  unfold State.takeForeignBeacon
  dsimp only
  split
  case h_1 part hpart =>
    exact (s.forward_steady x f).trans (.of_ring fun h => RingUnit.enter_legal h _ _ (rosterPart_hops hpart))
  case h_2 => exact (s.forward_steady x f).trans (State.countRing_steady _ _)

theorem State.takeFrame_steady (x : Line) (f : RingFrame) (s : State) : Steady s (s.takeFrame x f) := by
  unfold State.takeFrame
  split
  · exact s.takeStream_steady ..
  · split
    · exact s.takeOwnBeacon_steady ..
    · exact s.takeForeignBeacon_steady ..
  · exact .refl s

theorem State.sendBeacon_steady (l : Line) (f : RingFrame) (s : State) : Steady s (s.sendBeacon l f) := by
  unfold State.sendBeacon
  refine .ite fun _ => ?_
  dsimp only
  split
  · exact (s.offerLine_steady ..).trans (.of_ring fun h => h.addOutstanding _ _)
  · exact s.offerLine_steady ..

theorem State.emitBeacon_steady (s : State) : Steady s s.emitBeacon := by
  unfold State.emitBeacon
  dsimp only
  have hevaluated : Steady s (s.changeRing RingUnit.emission) := .of_ring RingUnit.emission_legal
  refine ((hevaluated.trans (.ite fun _ => State.raiseAll_steady .ring _)).trans
    ((State.sendBeacon_steady .a _ _).trans (State.sendBeacon_steady .b _ _))).trans (.of_ring fun h => h.aged)

/-! ### Contact frames -/

/-- The table after an intake of the own contact stream, where it has a publisher (R159). -/
def contactIntake (s : State) : List Entry :=
  match (s.find (s.ownId 0)).bind fun e => e.publisher with
  | some _ => changeEntry (s.ownId 0) (fun e => some e.intake) s.table
  | none => s.table

/-- A contact frame changes the table, the egresses and the mirror, which restarts its refresh timer (R157). -/
theorem State.contactFrame_eq (k : ContactFrameKind) (s : State) :
    s.contactFrame k = { s with
      table := contactIntake s
      egresses := (s.contactFrame k).egresses
      mirror := s.mirror.framed k s.timeBase } := by
  unfold State.contactFrame contactIntake
  rcases hp : (s.find (s.ownId 0)).bind fun e => e.publisher with _ | p <;> rfl

/-- A contact frame on the table (R159). -/
theorem Steady.contactIntake (s : State) : Steady s { s with table := contactIntake s } := by
  unfold Machine.contactIntake
  split
  · exact .intake (s.ownId 0) s
  · exact .refl s

/-- A contact frame on the lines (R91). -/
theorem State.contactFrame_lines (k : ContactFrameKind) {s : State} (h : LinesLegal s) :
    LinesLegal (s.contactFrame k) := by
  unfold State.contactFrame
  dsimp only
  split
  · exact (State.offerBoth_steady ..).lines (h.congr rfl rfl rfl rfl)
  · exact h.congr rfl rfl rfl rfl

theorem State.contactFrame_records (k : ContactFrameKind) {s : State}
    (h : ∀ e ∈ s.table, RecordsLegal s.profile.skewLimit e) :
    ∀ e ∈ (s.contactFrame k).table, RecordsLegal s.profile.skewLimit e := by
  rw [State.contactFrame_eq]
  dsimp only
  unfold contactIntake
  split
  · intro e he
    obtain ⟨y, hy, ⟨-, rfl⟩ | ⟨-, hfe⟩⟩ := mem_changeEntry.mp he
    · exact h e hy
    · cases hfe
      exact (h y hy).of_sup (.inl rfl)
  · exact h

theorem State.contactFrame_streams (k : ContactFrameKind) {s : State} (h : StreamsLegal s) :
    StreamsLegal (s.contactFrame k) := by
  refine ((Steady.contactIntake s).streams h).congr_mirror ?_ ?_ ?_ ?_ ?_ <;> rw [State.contactFrame_eq] <;> rfl

/-- A contact frame while publishing is on (R157). -/
theorem State.contactFrame_steady (k : ContactFrameKind) {s : State} (hpublish : s.mirror.publish = true) :
    Steady s (s.contactFrame k) where
  ports h := h.congr (by rw [State.contactFrame_eq])
  lines := State.contactFrame_lines k
  supervised h := ⟨by
    have hrecords := State.contactFrame_records k h.records
    rwa [show (s.contactFrame k).profile = s.profile by rw [State.contactFrame_eq]],
    by rw [State.contactFrame_eq]; exact Mirror.framed_legal h.mirror hpublish k _⟩
  streams := State.contactFrame_streams k
  ring h := by rw [State.contactFrame_eq]; exact h
  links t := by rw [State.contactFrame_eq]

theorem State.contactSample_steady (levels : Byte) (s : State) : Steady s (s.contactSample levels) := by
  have hsampled : Steady s { s with inPins := levels, mirror := s.mirror.sample levels } :=
    ⟨⟨id, fun h => h.congr rfl rfl rfl rfl, fun h => ⟨h.records, Mirror.sample_legal h.mirror levels⟩,
      fun h => h.congr_mirror rfl rfl rfl rfl rfl, id⟩, fun _ => rfl⟩
  unfold State.contactSample
  dsimp only
  split
  case isTrue hc => exact hsampled.trans (State.contactFrame_steady .change hc.1)
  case isFalse => exact hsampled

/-! ### SETUP (R168) -/

/-- A present field in its range, or the value held, which is in it. -/
theorem within_replaced {n lo hi held : Nat} {field : Option (BitVec n)}
    (h : present (fun b => within lo hi b.toNat) field = true) (hheld : lo ≤ held ∧ held ≤ hi) :
    lo ≤ replaced field held ∧ replaced field held ≤ hi := by
  rcases field with _ | b
  · exact hheld
  · simpa [present, within, replaced] using h

/-- A service list in range names all six normal queues, so it has at least six positions (R128). -/
theorem serviceList_bounds {list : List NormalQueue} (hlen : list.length ≤ 12) (hall : ∀ q ∈ normalQueues, q ∈ list) :
    6 ≤ list.length ∧ list.length ≤ 12 ∧ ∀ q : NormalQueue, q ∈ list := by
  refine ⟨?_, hlen, fun q => hall q ?_⟩
  · have hnodup : normalQueues.Nodup := by decide
    exact (hnodup.subperm hall).length_le
  · rcases q with _ | t | _
    · decide
    · cases t <;> decide
    · decide

/-- The service list after a SETUP in range. -/
theorem setup_serviceList {f : SetupFields} {p : Profile} (h : present validServiceList f.serviceList = true)
    (hp : ProfileLegal p) :
    (6 ≤ (applyFields f p).serviceList.length ∧ (applyFields f p).serviceList.length ≤ 12)
      ∧ ∀ q : NormalQueue, q ∈ (applyFields f p).serviceList := by
  unfold applyFields
  dsimp only
  rcases hcodes : f.serviceList with _ | codes
  · exact ⟨hp.serviceList, hp.named⟩
  · simp only [hcodes, present, validServiceList] at h
    split at h
    case h_1 list hlist =>
      simp only [within, Bool.and_eq_true, decide_eq_true_eq, List.all_eq_true] at h
      obtain ⟨⟨-, hlen⟩, hall⟩ := h
      obtain ⟨h6, h12, hq⟩ := serviceList_bounds hlen hall
      simp only [Option.bind_some, hlist, Option.getD_some]
      exact ⟨⟨h6, h12⟩, hq⟩
    case h_2 => cases h

/-- A SETUP in range leaves a legal profile (R168). -/
theorem ProfileLegal.applyFields {f : SetupFields} {p : Profile} (h : setupInRange f = true) (hp : ProfileLegal p) :
    ProfileLegal (applyFields f p) := by
  simp only [setupInRange, Bool.and_eq_true] at h
  obtain ⟨⟨⟨⟨⟨⟨⟨⟨⟨⟨hlap, hinterval⟩, hhold⟩, hlist⟩, hburst⟩, hfloorA⟩, hfloorB⟩, hdwell⟩, hperiod⟩, hthreshold⟩, hskew⟩ :=
    h
  obtain ⟨hlength, hnamed⟩ := setup_serviceList hlist hp
  refine ⟨within_replaced hlap hp.lapBudget, within_replaced hinterval hp.beaconInterval,
    (within_replaced hhold ⟨Nat.zero_le _, hp.claimHold⟩).2, hlength, hnamed, within_replaced hburst hp.urgentBurst,
    fun l => ?_, within_replaced hdwell hp.dwell, within_replaced hperiod hp.qualityPeriod,
    within_replaced hthreshold hp.qualityThreshold, (within_replaced hskew ⟨Nat.zero_le _, hp.skewLimit⟩).2⟩
  cases l
  · exact (within_replaced hfloorA ⟨Nat.zero_le _, hp.floors .a⟩).2
  · exact (within_replaced hfloorB ⟨Nat.zero_le _, hp.floors .b⟩).2

/-- The receiver of a line after a SETUP that gives the profile `p` (R110): in SEARCH below a floor that changed, it is
moved to the floor and its dwell is started anew. -/
def State.refloored (l : Line) (p : Profile) (s : State) : Receiver :=
  if p.floors.get l ≠ s.profile.floors.get l ∧ (s.receivers.get l).state = .search
      ∧ (s.receivers.get l).level < p.floors.get l then
    { s.receivers.get l with level := p.floors.get l, dwellTimer := some (s.timeBase + millis p.dwell) }
  else s.receivers.get l

/-- A floor that changed, and the receiver of its line. -/
theorem State.floorIf_eq (l : Line) (changed : Bool) (s : State) :
    s.floorIf l changed = { s with
      receivers := s.receivers.set l
        (if changed = true ∧ (s.receivers.get l).state = .search ∧ (s.receivers.get l).level < s.floor l then
          { s.receivers.get l with level := s.floor l, dwellTimer := some (s.dueIn s.profile.dwell) }
        else s.receivers.get l) } := by
  cases changed
  · simp [State.floorIf]
  · by_cases h : (s.receivers.get l).state = .search ∧ (s.receivers.get l).level < s.floor l
    · simp only [State.floorIf, State.floorChanged, if_pos h, true_and, if_true]
      rfl
    · simp [State.floorIf, State.floorChanged, h]

/-- What a SETUP in range leaves (R168): the ports apart, each field by the rule of its block. -/
theorem State.applySetup_eq (t : Trib) (f : SetupFields) (s : State) :
    s.applySetup t f = { s with
      profile := applyFields f s.profile
      table :=
        if (applyFields f s.profile).skewLimit ≠ s.profile.skewLimit then
          s.table.map (Entry.evaluateSkew (applyFields f s.profile).skewLimit)
        else s.table
      ports := (s.applySetup t f).ports
      receivers := ⟨s.refloored .a (applyFields f s.profile), s.refloored .b (applyFields f s.profile)⟩
      egresses := s.egresses.map (Egress.setup f.serviceList.isSome (f.urgentBurst.map BitVec.toNat)) } := by
  unfold State.applySetup State.refloored
  simp only [State.floorIf_eq, bne_iff_ne]
  split <;> rfl

theorem State.applySetup_ports (t : Trib) (f : SetupFields) (s : State) : PortsSteady s (s.applySetup t f) := by
  have hraise : ∀ v : State, PortsSteady v v.evaluateSkews := fun v => by
    refine .trans (u := { v with table := v.table.map (Entry.evaluateSkew v.profile.skewLimit) }) (.of_eq rfl) ?_
    refine (State.changePorts_steady _ (fun u p => ?_) fun u p h => ?_).portsSteady <;> split
    · exact Port.raise_link ..
    · rfl
    · exact Port.raise_legal h _
    · exact h
  unfold State.applySetup
  simp only [State.floorIf_eq]
  refine .trans (.ite ?_ (hraise _)) (State.raiseProfile_steady ..).portsSteady
  exact .of_eq rfl

/-- The receiver of a line stays legal under the floor of the new profile (R105, R110). -/
theorem ReceiverLegal.refloored {s : State} {l : Line} (h : ReceiverLegal (s.floor l) (s.receivers.get l)) {p : Profile}
    (hp : ProfileLegal p) :
    ReceiverLegal (p.floors.get l) (s.refloored l p) ∧ (s.refloored l p).state = (s.receivers.get l).state := by
  unfold State.refloored
  split
  case isTrue hc =>
    obtain ⟨-, hsearch, -⟩ := hc
    exact ⟨⟨hp.floors l, fun _ => le_refl _, by simp [hsearch], h.quality, h.count, h.countBound⟩, rfl⟩
  case isFalse hc =>
    refine ⟨⟨h.level, fun hsearch => ?_, h.dwell, h.quality, h.count, h.countBound⟩, rfl⟩
    by_contra hlow
    refine hc ⟨fun hsame => hlow ?_, hsearch, by omega⟩
    rw [hsame]
    exact h.searchLevel hsearch

/-- An egress stays legal with the service list and the urgent burst of a SETUP (R128). -/
theorem EgressLegal.setup {isOpen : Bool} {p : Profile} {e : Egress} (h : EgressLegal isOpen p e) {f : SetupFields}
    (hp : ProfileLegal (applyFields f p)) :
    EgressLegal isOpen (applyFields f p) (e.setup f.serviceList.isSome (f.urgentBurst.map BitVec.toNat)) := by
  refine ⟨h.capacity, h.closedEmpty, h.freeIdle, ?_, ?_⟩
  · unfold Egress.setup applyFields
    rcases f.urgentBurst with _ | u
    · exact h.credit
    · exact Nat.min_le_right ..
  · have hlength := hp.serviceList.1
    unfold Egress.setup
    rcases hl : f.serviceList with _ | codes
    · simp only [applyFields, hl]
      exact h.position
    · simp only [Option.isSome_some, if_true]
      omega

theorem setupEffect_steady (t : Trib) (f : SetupFields) (s : State) : Steady s (setupEffect t f s).state := by
  unfold setupEffect
  split
  case isFalse => exact .refl s
  case isTrue hrange =>
    have heq := s.applySetup_eq t f
    have hports := s.applySetup_ports t f
    rw [Answer.done_state]
    refine ⟨⟨hports.legal, fun h => ?_, fun h => ?_, fun h => ?_, fun h => by rw [heq]; exact h⟩, hports.links⟩
    · have hp := h.profile.applyFields hrange
      have hreceiver := fun l => (h.receivers.1 l).refloored hp
      rw [heq]
      refine ⟨hp, ⟨fun l => ?_, fun hv l => ?_⟩, fun l => ?_⟩
      · cases l
        · exact (hreceiver .a).1
        · exact (hreceiver .b).1
      · cases l
        · exact (hreceiver .a).2.trans (h.receivers.2 hv .a)
        · exact (hreceiver .b).2.trans (h.receivers.2 hv .b)
      · have hopen : ∀ l, ((s.refloored l (applyFields f s.profile)).state == .locked) = s.isOpen l := fun l => by
          rw [(hreceiver l).2]
          rfl
        have hegress : EgressLegal ((s.refloored l (applyFields f s.profile)).state == .locked)
            (applyFields f s.profile)
            ((s.egresses.get l).setup f.serviceList.isSome (f.urgentBurst.map BitVec.toNat)) := by
          rw [hopen]
          exact (h.egresses l).setup hp
        cases l <;> exact hegress
    · rw [heq]
      refine ⟨fun e he => ?_, h.mirror⟩
      dsimp only at he ⊢
      split at he
      · obtain ⟨x, hx, rfl⟩ := List.mem_map.mp he
        exact (h.records x hx).evaluateSkew _
      case isFalse hsame =>
        rw [not_not.mp hsame]
        exact h.records e he
    · rw [heq]
      split
      · refine h.pass (g := fun e => some (e.evaluateSkew (applyFields f s.profile).skewLimit)) rfl
          (by rw [← List.filterMap_eq_map]; rfl) (fun e _ hlegal => ?_) (fun e _ _ e' he' => ?_) rfl rfl rfl
        · exact .of_same hlegal rfl rfl rfl (by simp [Entry.evaluateSkew])
        · cases he'
          simp [Entry.evaluateSkew, Function.comp_def]
      · exact h.congr rfl rfl rfl

end Sys2Proof.Machine
end

section
namespace Sys2Proof.Machine

/-! ### MIRROR's memberships (R34) -/

/-- The contact streams of two bays are two streams. -/
theorem contactId_ne {b c : Byte} (h : b ≠ c) : (⟨b, 0⟩ : StreamId) ≠ ⟨c, 0⟩ := fun he => h (congrArg StreamId.bay he)

/-- A join by MIRROR of the contact stream of a foreign bay. -/
theorem MirrorTable.join {ownBay : Byte} {bound : Byte → Prop} {publish : Prop} {table : List Entry}
    (h : MirrorTable ownBay bound publish table) {b : Byte} (hb : b ≠ ownBay) (p m : Nat) :
    MirrorTable ownBay (fun x => bound x ∨ x = b) publish (joinTable false ⟨b, 0⟩ .mirror p m table) := by
  have hown := contactId_ne hb
  have hzero : ∀ x : Entry, x.id ≠ ⟨b, 0⟩ → x.id.index = 0 → x.id.bay ≠ b := fun x hx hi hxb =>
    hx (by rw [← hi, ← hxb])
  have hfound := findEntry_joinTable false ⟨b, 0⟩ .mirror p m table
  have hmake : EntryLegal ownBay
      (Entry.make ⟨b, 0⟩ .general none (Members.empty.put .mirror true) (some (Supervision.initial p m))) :=
    .make_joined (Nat.zero_le _) hown (fun _ => hb) (by simpa using hb)
  refine ⟨?_, fun e he => ?_, by rw [hfound, if_neg (Ne.symm hown)]; exact h.contact, fun e he => ?_, fun x hx => ?_⟩
  · rcases hf : findEntry ⟨b, 0⟩ table with _ | x
    · rw [joinTable_of_none hf]
      exact insertEntry_ordered hf h.ordered
    · rw [joinTable_of_some hf]
      exact changeEntry_ordered (fun e e' he => by cases he; rfl) h.ordered
  · rcases hf : findEntry ⟨b, 0⟩ table with _ | x
    · rw [joinTable_of_none hf] at he
      rcases mem_insertEntry.mp he with rfl | he
      · exact hmake
      · exact h.entries e he
    · rw [joinTable_of_some hf] at he
      obtain ⟨y, hy, ⟨-, rfl⟩ | ⟨hid, hye⟩⟩ := mem_changeEntry.mp he
      · exact h.entries e hy
      · cases hye
        exact (h.entries y hy).joined (by rw [hid]; exact hown) (by simp) (fun _ => by rw [hid]; exact hb) p m
  · rcases hf : findEntry ⟨b, 0⟩ table with _ | x
    · rw [joinTable_of_none hf] at he
      rcases mem_insertEntry.mp he with rfl | he
      · exact iff_of_true rfl ⟨rfl, .inr rfl⟩
      · have hne := findEntry_none.mp hf e he
        rw [h.members e he]
        exact and_congr_right fun hi => (or_iff_left (hzero e hne hi)).symm
    · rw [joinTable_of_some hf] at he
      obtain ⟨y, hy, ⟨hne, rfl⟩ | ⟨hid, hye⟩⟩ := mem_changeEntry.mp he
      · rw [h.members e hy]
        exact and_congr_right fun hi => (or_iff_left (hzero e hne hi)).symm
      · cases hye
        exact iff_of_true rfl ⟨congrArg StreamId.index hid, .inr (congrArg StreamId.bay hid)⟩
  · rw [hfound]
    split
    · rfl
    case isFalse hne =>
      rcases hx with hx | rfl
      · exact h.joined x hx
      · exact absurd rfl hne

/-- A leaving by MIRROR of the contact stream of a foreign bay. -/
theorem MirrorTable.leave {ownBay : Byte} {bound : Byte → Prop} {publish : Prop} {table : List Entry}
    (h : MirrorTable ownBay bound publish table) {b : Byte} (hb : b ≠ ownBay) :
    MirrorTable ownBay (fun x => bound x ∧ x ≠ b) publish (leaveTable ⟨b, 0⟩ .mirror table) := by
  have hown := contactId_ne (Ne.symm hb)
  have hid : ∀ e e' : Entry, e.leave .mirror = some e' → e'.id = e.id := fun _ _ => Entry.leave_id
  unfold leaveTable
  refine ⟨changeEntry_ordered hid h.ordered, fun e he => ?_,
    by rw [findEntry_changeEntry_ne hid _ hown]; exact h.contact, fun e he => ?_, fun x ⟨hx, hne⟩ => ?_⟩
  · obtain ⟨y, hy, ⟨-, rfl⟩ | ⟨-, hye⟩⟩ := mem_changeEntry.mp he
    · exact h.entries e hy
    · exact (h.entries y hy).settle (.inl rfl) (fun _ hx => Members.has_of_put_false hx) hye
  · obtain ⟨y, hy, ⟨hne, rfl⟩ | ⟨hyid, hye⟩⟩ := mem_changeEntry.mp he
    · rw [h.members e hy]
      refine and_congr_right fun hi => (and_iff_left fun hxb => hne ?_).symm
      rw [← hi, ← hxb]
    · obtain ⟨hid', -, -, hm, -⟩ := Entry.settle_some hye
      refine iff_of_false (by rw [hm]; simp [Members.put]) fun ⟨_, _, hne⟩ => hne ?_
      rw [hid']
      exact congrArg StreamId.bay hyid
  · rw [findEntry_changeEntry_ne hid _ (contactId_ne hne)]
    exact h.joined x hx

/-- A join changes no health: what it makes is WAITING, as a bay without an entry counts (R28, R160). -/
theorem entryHealth_joinTable (id : StreamId) (x : Holder) (p m : Nat) (table : List Entry) (b : Byte) :
    entryHealth b (joinTable false id x p m table) = entryHealth b table := by
  unfold entryHealth
  rw [findEntry_joinTable]
  by_cases hid : (⟨b, 0⟩ : StreamId) = id
  · rw [if_pos hid, hid]
    rcases findEntry id table with _ | e
    · rfl
    · rcases hs : e.sup with _ | sup <;> simp [hs]
  · rw [if_neg hid]

/-- A leaving of another stream changes no health. -/
theorem entryHealth_leaveTable {b c : Byte} (h : c ≠ b) (x : Holder) (table : List Entry) :
    entryHealth c (leaveTable ⟨b, 0⟩ x table) = entryHealth c table := by
  unfold entryHealth leaveTable
  rw [findEntry_changeEntry_ne (fun _ _ => Entry.leave_id) _ (contactId_ne h)]

/-- A join adds an entry where there is none, and no other (R20, R28). -/
theorem length_joinTable (own : Bool) (id : StreamId) (x : Holder) (p m : Nat) (table : List Entry) :
    (joinTable own id x p m table).length = table.length + if findEntry id table = none then 1 else 0 := by
  rcases hf : findEntry id table with _ | e
  · rw [joinTable_of_none hf, length_insertEntry]
    rfl
  · rw [joinTable_of_some hf]
    have hlength : ∀ t : List Entry, (changeEntry id (fun e => some (e.joined x p m)) t).length = t.length := by
      intro t
      unfold changeEntry
      induction t with
      | nil => rfl
      | cons y rest ih =>
        by_cases hy : y.id = id <;> simp [hy, ih]
    simpa using hlength table

section Joins

variable {ownBay : Byte} {publish : Prop} {bays : List Byte} (hforeign : ∀ b ∈ bays, b ≠ ownBay)
include hforeign

/-- MIRROR joins the contact stream of every bay of a list. -/
theorem MirrorTable.joins {bound : Byte → Prop} {table : List Entry} (h : MirrorTable ownBay bound publish table)
    (p m : Nat) :
    MirrorTable ownBay (fun x => bound x ∨ x ∈ bays) publish
      (bays.foldl (fun table b => joinTable false ⟨b, 0⟩ .mirror p m table) table) := by
  induction bays generalizing bound table with
  | nil => simpa using h
  | cons b rest ih =>
    have hjoined := h.join (hforeign b (by simp)) p m
    have hrest := ih (fun x hx => hforeign x (by simp [hx])) hjoined
    simpa only [List.foldl_cons, List.mem_cons, or_assoc] using hrest

/-- MIRROR leaves the contact stream of every bay of a list. -/
theorem MirrorTable.leaves {bound : Byte → Prop} {table : List Entry} (h : MirrorTable ownBay bound publish table) :
    MirrorTable ownBay (fun x => bound x ∧ x ∉ bays) publish
      (bays.foldl (fun table b => leaveTable ⟨b, 0⟩ .mirror table) table) := by
  induction bays generalizing bound table with
  | nil => simpa using h
  | cons b rest ih =>
    have hleft := h.leave (hforeign b (by simp))
    have hrest := ih (fun x hx => hforeign x (by simp [hx])) hleft
    simpa only [List.foldl_cons, List.mem_cons, not_or, and_assoc, ne_eq] using hrest

end Joins

theorem entryHealth_joins (bays : List Byte) (p m : Nat) (table : List Entry) (c : Byte) :
    entryHealth c (bays.foldl (fun table b => joinTable false ⟨b, 0⟩ .mirror p m table) table)
      = entryHealth c table := by
  induction bays generalizing table with
  | nil => rfl
  | cons b rest ih => rw [List.foldl_cons, ih, entryHealth_joinTable]

theorem entryHealth_leaves {bays : List Byte} {c : Byte} (h : c ∉ bays) (table : List Entry) :
    entryHealth c (bays.foldl (fun table b => leaveTable ⟨b, 0⟩ .mirror table) table) = entryHealth c table := by
  induction bays generalizing table with
  | nil => rfl
  | cons b rest ih =>
    simp only [List.mem_cons, not_or] at h
    rw [List.foldl_cons, ih h.2, entryHealth_leaveTable h.1]

/-- The joins of MIRROR add an entry for each bay that has none (R34). -/
theorem length_joins {bays : List Byte} (hnodup : bays.Nodup) (p m : Nat) (table : List Entry) :
    (bays.foldl (fun table b => joinTable false ⟨b, 0⟩ .mirror p m table) table).length
      = table.length + (bays.filter fun b => findEntry ⟨b, 0⟩ table == none).length := by
  induction bays generalizing table with
  | nil => simp
  | cons b rest ih =>
    rw [List.nodup_cons] at hnodup
    have hrest : (rest.filter fun c => findEntry ⟨c, 0⟩ (joinTable false ⟨b, 0⟩ .mirror p m table) == none)
        = rest.filter fun c => findEntry ⟨c, 0⟩ table == none := by
      refine List.filter_congr fun c hc => ?_
      have hne : c ≠ b := fun he => hnodup.1 (he ▸ hc)
      rw [findEntry_joinTable, if_neg (contactId_ne hne)]
    rw [List.foldl_cons, ih hnodup.2, hrest, length_joinTable, List.filter_cons]
    rcases findEntry ⟨b, 0⟩ table with _ | e
    · simp only [if_true, beq_self_eq_true, List.length_cons]
      omega
    · rfl

theorem length_leaves_le (bays : List Byte) (table : List Entry) :
    (bays.foldl (fun table b => leaveTable ⟨b, 0⟩ .mirror table) table).length ≤ table.length := by
  induction bays generalizing table with
  | nil => exact le_refl _
  | cons b rest ih => exact (ih _).trans (length_changeEntry_le ..)

/-- The records stay legal through the joins and leavings of MIRROR. -/
theorem records_mirrorMemberships {limit refresh : Nat} {table : List Entry} (h : ∀ e ∈ table, RecordsLegal limit e)
    (hrefresh : 10 ≤ refresh ∧ refresh ≤ 1000) (before after : List Byte) :
    ∀ e ∈ mirrorMemberships before after refresh table, RecordsLegal limit e := by
  have hjoins : ∀ (bays : List Byte) (table : List Entry), (∀ e ∈ table, RecordsLegal limit e) →
      ∀ e ∈ bays.foldl (fun table b => joinTable false ⟨b, 0⟩ .mirror (1000 * refresh) 3 table) table,
        RecordsLegal limit e := by
    intro bays
    induction bays with
    | nil => exact fun _ h => h
    | cons b rest ih =>
      exact fun table h => ih _ (records_joinTable h false _ _ (by omega) (by omega))
  have hleaves : ∀ (bays : List Byte) (table : List Entry), (∀ e ∈ table, RecordsLegal limit e) →
      ∀ e ∈ bays.foldl (fun table b => leaveTable ⟨b, 0⟩ .mirror table) table, RecordsLegal limit e := by
    intro bays
    induction bays with
    | nil => exact fun _ h => h
    | cons b rest ih =>
      refine fun table h => ih _ fun e he => ?_
      obtain ⟨y, hy, ⟨-, rfl⟩ | ⟨-, hye⟩⟩ := mem_changeEntry.mp he
      · exact h e hy
      · exact (h y hy).of_sup ((Entry.settle_sup hye).imp_right And.left)
  exact hleaves _ _ (hjoins _ _ h)

theorem mem_newlyBound {before after : List Byte} {b : Byte} : b ∈ newlyBound before after ↔ b ∈ after ∧ b ∉ before := by
  simp [newlyBound]

/-- MIRROR is a member of exactly the contact streams of the bays bound after its request (R34). -/
theorem MirrorTable.memberships {ownBay : Byte} {publish : Prop} {before after : List Byte} {table : List Entry}
    (h : MirrorTable ownBay (· ∈ before) publish table) (hbefore : ∀ b ∈ before, b ≠ ownBay)
    (hafter : ∀ b ∈ after, b ≠ ownBay) (refresh : Nat) :
    MirrorTable ownBay (· ∈ after) publish (mirrorMemberships before after refresh table) := by
  have hleft := (h.joins hafter (1000 * refresh) 3).leaves (bays := newlyBound after before)
    fun b hb => hbefore b (mem_newlyBound.mp hb).1
  have hbound : (fun x => (x ∈ before ∨ x ∈ after) ∧ x ∉ newlyBound after before) = (· ∈ after) := by
    funext x
    rw [mem_newlyBound]
    by_cases hx : x ∈ after <;> simp [hx]
  rw [hbound] at hleft
  exact hleft

/-- The health of a bay bound after the request is that of its entry before it. -/
theorem entryHealth_memberships {before after : List Byte} {b : Byte} (hb : b ∈ after) (refresh : Nat)
    (table : List Entry) : entryHealth b (mirrorMemberships before after refresh table) = entryHealth b table := by
  unfold mirrorMemberships
  rw [entryHealth_leaves (fun h => (mem_newlyBound.mp h).2 hb), entryHealth_joins]

/-- The memberships need no more slots than the request was granted (R34). -/
theorem length_memberships_le {before after : List Byte} (hnodup : after.Nodup) {table : List Entry}
    (hthere : ∀ b ∈ before, (findEntry ⟨b, 0⟩ table).isSome = true) (refresh : Nat) :
    (mirrorMemberships before after refresh table).length
      ≤ table.length + ((newlyBound before after).filter fun b => findEntry ⟨b, 0⟩ table == none).length := by
  have hsame : after.filter (fun b => findEntry ⟨b, 0⟩ table == none)
      = (newlyBound before after).filter fun b => findEntry ⟨b, 0⟩ table == none := by
    rw [newlyBound, List.filter_filter]
    refine List.filter_congr fun b _ => ?_
    by_cases hb : b ∈ before
    · obtain ⟨e, he⟩ := Option.isSome_iff_exists.mp (hthere b hb)
      rw [he]
      rfl
    · rw [decide_eq_true hb, Bool.and_true]
  unfold mirrorMemberships
  refine (length_leaves_le ..).trans ?_
  rw [length_joins hnodup, hsame]

end Sys2Proof.Machine
end

section
namespace Sys2Proof.Machine

/-! ### Publishing (R33) -/

/-- The contact entry is made where publishing is turned on (R33). -/
theorem findEntry_publishingOn {ownBay : Byte} {table : List Entry} (hnew : findEntry ⟨ownBay, 0⟩ table = none)
    (id : StreamId) :
    findEntry id (mirrorPublishing ⟨ownBay, 0⟩ false true table)
      = if id = ⟨ownBay, 0⟩ then
          some (Entry.make ⟨ownBay, 0⟩ .urgent (some ⟨.mirror, .active, 0⟩) Members.empty none)
        else findEntry id table := findEntry_insertEntry hnew id

/-- Publishing turned on or off, or left as it is (R33). -/
theorem MirrorTable.publishing {ownBay : Byte} {bound : Byte → Prop} {before : Bool} {table : List Entry}
    (h : MirrorTable ownBay bound (before = true) table) (hown : ¬ bound ownBay) (after : Bool) :
    MirrorTable ownBay bound (after = true) (mirrorPublishing ⟨ownBay, 0⟩ before after table) := by
  have hne : ∀ b, bound b → (⟨b, 0⟩ : StreamId) ≠ ⟨ownBay, 0⟩ := fun b hb =>
    contactId_ne fun he => hown (he ▸ hb)
  cases before <;> cases after
  case false.false => exact h
  case true.true => exact h
  case false.true =>
    have hnew : findEntry ⟨ownBay, 0⟩ table = none := by
      rcases hf : findEntry ⟨ownBay, 0⟩ table with _ | e
      · rfl
      · exact absurd (h.contact.mp (by rw [hf]; rfl)) (by simp)
    have hlegal : EntryLegal ownBay
        (Entry.make ⟨ownBay, 0⟩ .urgent (some ⟨.mirror, .active, 0⟩) Members.empty none) :=
      ⟨Nat.zero_le _, .inl (by simp [Entry.make]), by simp [Entry.make], fun hb => absurd rfl hb, iff_of_true rfl rfl,
        fun _ => rfl, fun _ => rfl, fun t ht => by simp [Entry.make, Entry.publishedBy] at ht⟩
    refine ⟨insertEntry_ordered hnew h.ordered, fun e he => ?_, ?_, fun e he => ?_, fun b hb => ?_⟩
    · rcases mem_insertEntry.mp he with rfl | he
      · exact hlegal
      · exact h.entries e he
    · exact iff_of_true (by rw [findEntry_publishingOn hnew, if_pos rfl]; rfl) rfl
    · rcases mem_insertEntry.mp he with rfl | he
      · exact iff_of_false (by simp [Entry.make, Members.empty]) fun hb => hown hb.2
      · exact h.members e he
    · rw [findEntry_publishingOn hnew, if_neg (hne b hb)]
      exact h.joined b hb
  case true.false =>
    have hid : ∀ e e' : Entry, e.unpublish = some e' → e'.id = e.id := fun _ _ => Entry.unpublish_id
    have hfreed : ∀ e ∈ table, e.id = ⟨ownBay, 0⟩ → e.unpublish = none := by
      intro e he hi
      rcases Entry.settle_cases { e with publisher := none } with ⟨-, -, hs⟩ | ⟨-, hp, -⟩ | ⟨hm, -⟩
      · exact hs
      · exact absurd rfl hp
      · exact absurd ((h.entries e he).contactUnjoined hi) hm
    have hkept : ∀ e ∈ changeEntry ⟨ownBay, 0⟩ Entry.unpublish table, e ∈ table := by
      intro e he
      obtain ⟨y, hy, ⟨-, rfl⟩ | ⟨hi, hye⟩⟩ := mem_changeEntry.mp he
      · exact hy
      · rw [hfreed y hy hi] at hye
        cases hye
    refine ⟨changeEntry_ordered hid h.ordered, fun e he => h.entries e (hkept e he), ?_,
      fun e he => h.members e (hkept e he), fun b hb => ?_⟩
    · refine iff_of_false ?_ (by simp)
      rw [mirrorPublishing, findEntry_changeEntry_self hid h.ordered]
      rcases hf : findEntry ⟨ownBay, 0⟩ table with _ | e
      · simp
      · rw [Option.bind_some, hfreed e (findEntry_mem hf) (findEntry_id hf)]
        simp
    · rw [mirrorPublishing, findEntry_changeEntry_ne hid _ (hne b hb)]
      exact h.joined b hb

/-- Publishing changes the health of no foreign bay's stream. -/
theorem entryHealth_publishing {ownBay b : Byte} (h : b ≠ ownBay) {before : Bool} {table : List Entry}
    (hnew : before = false → findEntry ⟨ownBay, 0⟩ table = none) (after : Bool) :
    entryHealth b (mirrorPublishing ⟨ownBay, 0⟩ before after table) = entryHealth b table := by
  have hne := contactId_ne h
  apply entryHealth_congr
  cases before <;> cases after
  · rfl
  · rw [findEntry_publishingOn (hnew rfl), if_neg hne]
  · rw [mirrorPublishing, findEntry_changeEntry_ne (fun _ _ => Entry.unpublish_id) _ hne]
  · rfl

theorem length_publishing_le (id : StreamId) (before after : Bool) (table : List Entry) :
    (mirrorPublishing id before after table).length ≤ table.length + (after && !before).toNat := by
  cases before <;> cases after
  · exact le_refl _
  · exact (length_insertEntry ..).le
  · exact length_changeEntry_le ..
  · exact le_refl _

theorem records_mirrorPublishing {limit : Nat} {table : List Entry} (h : ∀ e ∈ table, RecordsLegal limit e)
    (id : StreamId) (before after : Bool) : ∀ e ∈ mirrorPublishing id before after table, RecordsLegal limit e := by
  cases before <;> cases after
  · exact h
  · intro e he
    rcases mem_insertEntry.mp he with rfl | he
    · exact .of_none rfl
    · exact h e he
  · intro e he
    obtain ⟨y, hy, ⟨-, rfl⟩ | ⟨-, hye⟩⟩ := mem_changeEntry.mp he
    · exact h e hy
    · exact (h y hy).of_sup ((Entry.settle_sup hye).imp_right And.left)
  · exact h

/-! ### Source records (R160) -/

theorem findSource_isSome {b : Byte} {sources : List Source} :
    (findSource b sources).isSome = true ↔ ∃ r ∈ sources, r.bay = b := by
  simp [findSource]

theorem insertSource_ordered {r : Source} {sources : List Source} (hn : ∀ x ∈ sources, x.bay ≠ r.bay)
    (ho : sources.Pairwise fun x y => x.bay.toNat < y.bay.toNat) :
    (insertSource r sources).Pairwise fun x y => x.bay.toNat < y.bay.toNat := by
  unfold insertSource
  induction sources with
  | nil => simp
  | cons x rest ih =>
    rw [List.pairwise_cons] at ho
    have hx : x.bay.toNat ≠ r.bay.toNat := fun h => hn x (by simp) (BitVec.eq_of_toNat_eq h)
    rw [List.orderedInsert_cons]
    split
    case isTrue hle =>
      refine List.pairwise_cons.mpr ⟨fun y hy => ?_, List.pairwise_cons.mpr ho⟩
      rcases List.mem_cons.mp hy with rfl | hy
      · omega
      · have := ho.1 y hy
        omega
    case isFalse hle =>
      refine List.pairwise_cons.mpr ⟨fun y hy => ?_, ih (fun y hy => hn y (by simp [hy])) ho.2⟩
      rcases (List.mem_orderedInsert ..).mp hy with rfl | hy
      · omega
      · exact ho.1 y hy

/-- A source record made for a newly bound bay (R160). -/
theorem SourcesLegal.insert {bound : Byte → Prop} {table : List Entry} {sources : List Source}
    (h : SourcesLegal bound table sources) {b : Byte} (hb : ¬ bound b) :
    SourcesLegal (fun x => bound x ∨ x = b) table (insertSource ⟨b, entryHealth b table, none⟩ sources) := by
  refine ⟨fun x => ?_, insertSource_ordered (fun x hx hxb => hb ?_) h.ordered, fun r hr => ?_, fun r hr hv => ?_⟩
  · rw [findSource_isSome, ← h.found, findSource_isSome]
    simp only [mem_insertSource, or_and_right, exists_or, exists_eq_left]
    rw [or_comm, eq_comm (a := b)]
  · exact (h.found b).mp (findSource_isSome.mpr ⟨x, hx, hxb⟩)
  · rcases mem_insertSource.mp hr with rfl | hr
    · rfl
    · exact h.health r hr
  · rcases mem_insertSource.mp hr with rfl | hr
    · rfl
    · exact h.noData r hr hv

theorem SourcesLegal.inserts {bound : Byte → Prop} {table : List Entry} {bays : List Byte} (hnodup : bays.Nodup)
    {sources : List Source} (h : SourcesLegal bound table sources) (hb : ∀ b ∈ bays, ¬ bound b) :
    SourcesLegal (fun x => bound x ∨ x ∈ bays) table
      (bays.foldl (fun rs b => insertSource ⟨b, entryHealth b table, none⟩ rs) sources) := by
  induction bays generalizing bound sources with
  | nil => simpa using h
  | cons b rest ih =>
    rw [List.nodup_cons] at hnodup
    have hinserted := h.insert (hb b (by simp))
    have hrest := ih hnodup.2 hinserted fun c hc => by
      rw [not_or]
      exact ⟨hb c (by simp [hc]), fun he => hnodup.1 (he ▸ hc)⟩
    simpa only [List.foldl_cons, List.mem_cons, or_assoc] using hrest

/-- The source records after a MIRROR request are those of the bays bound after it (R160). -/
theorem SourcesLegal.rebound {before after : List Byte} {table table' : List Entry} {sources : List Source}
    (h : SourcesLegal (· ∈ before) table sources) (hnodup : after.Nodup)
    (hhealth : ∀ b ∈ after, entryHealth b table' = entryHealth b table) :
    SourcesLegal (· ∈ after) table' (mirrorSources before after table' sources) := by
  have hfiltered : SourcesLegal (fun b => b ∈ before ∧ b ∈ after) table'
      (sources.filter fun r => decide (r.bay ∈ after)) := by
    refine ⟨fun b => ?_, h.ordered.filter _, fun r hr => ?_, fun r hr hv => ?_⟩
    · rw [findSource_isSome, ← h.found, findSource_isSome]
      simp only [List.mem_filter, decide_eq_true_eq]
      constructor
      · rintro ⟨r, ⟨hr, ha⟩, rfl⟩
        exact ⟨⟨r, hr, rfl⟩, ha⟩
      · rintro ⟨⟨r, hr, rfl⟩, ha⟩
        exact ⟨r, ⟨hr, ha⟩, rfl⟩
    · simp only [List.mem_filter, decide_eq_true_eq] at hr
      rw [hhealth _ hr.2]
      exact h.health r hr.1
    · exact h.noData r (List.mem_filter.mp hr).1 hv
  have hinserted := hfiltered.inserts (bays := newlyBound before after) (hnodup.filter _) fun b hb hbound =>
    (mem_newlyBound.mp hb).2 hbound.1
  have hbound : (fun b => (b ∈ before ∧ b ∈ after) ∨ b ∈ newlyBound before after) = (· ∈ after) := by
    funext b
    rw [mem_newlyBound]
    by_cases hb : b ∈ before <;> simp [hb]
  rw [hbound] at hinserted
  exact hinserted

/-! ### Outputs and settings (R156, R162) -/

/-- The binding of an output after a MIRROR request (R162). -/
@[simp] theorem mirrorOutputs_binding (ownBay : Byte) (f : MirrorFields) (sources : List Source)
    (outputs : Oct ContactOutput) (i : Fin 8) :
    ((mirrorOutputs ownBay f sources outputs).get i).binding
      = newBinding ownBay (f.bindings.get i) (outputs.get i).binding := by
  simp only [mirrorOutputs, Oct.get_ofFn]
  split
  case isTrue h => exact h.symm
  case isFalse => rfl

/-- The bays bound after a MIRROR request are those of the outputs it leaves. -/
theorem mem_boundBays_mirrorOutputs {ownBay : Byte} {f : MirrorFields} {sources : List Source}
    {outputs : Oct ContactOutput} {b : Byte} :
    b ∈ boundBays (mirrorOutputs ownBay f sources outputs) ↔ b ∈ boundBays (rebound ownBay f outputs) := by
  simp only [mem_boundBays, mirrorOutputs_binding, rebound, Oct.get_ofFn]

/-- An output unbound after a MIRROR request is low (R162). -/
theorem mirrorOutputs_unboundLow {ownBay : Byte} {f : MirrorFields} {sources : List Source}
    {outputs : Oct ContactOutput} {i : Fin 8} (h : (outputs.get i).binding = none → (outputs.get i).level = false)
    (hb : ((mirrorOutputs ownBay f sources outputs).get i).binding = none) :
    ((mirrorOutputs ownBay f sources outputs).get i).level = false := by
  rw [mirrorOutputs_binding] at hb
  simp only [mirrorOutputs, Oct.get_ofFn, hb]
  split
  case isTrue hsame => exact h hsame.symm
  case isFalse => rfl

/-- The bindings after a MIRROR request name foreign bays (R160). -/
theorem newBinding_legal {ownBay : Byte} {f : MirrorFields} {i : Fin 8} {held : Option Binding}
    (hheld : ∀ b ∈ held, validBay b.bay = true ∧ b.bay ≠ ownBay) :
    ∀ b ∈ newBinding ownBay (f.bindings.get i) held, validBay b.bay = true ∧ b.bay ≠ ownBay := by
  intro b hb
  rcases hf : f.bindings.get i with _ | named
  · rw [hf] at hb
    exact hheld b hb
  · rw [hf] at hb
    obtain ⟨fields, -, hbinding⟩ := Option.bind_eq_some_iff.mp hb
    obtain ⟨hvalid, hne, -⟩ := bindingOf_bay hbinding
    exact ⟨hvalid, hne⟩

/-- The state a MIRROR request leaves before its contact frame and its reports (R169). -/
def State.mirrored (f : MirrorFields) (s : State) : State :=
  let set := s.mirror.settings f
  let before := boundBays s.mirror.outputs
  let after := boundBays (rebound s.ownBay f s.mirror.outputs)
  let table := mirrorPublishing (s.ownId 0) s.mirror.publish set.publish
    (mirrorMemberships before after set.refresh s.table)
  let sources := mirrorSources before after table s.mirror.sources
  { s with
    table := table
    mirror := { set with sources := sources, outputs := mirrorOutputs s.ownBay f sources s.mirror.outputs } }

/-- A MIRROR request is that state, the contact frame where one is due, and the reports (R169). -/
theorem State.applyMirror_eq (t : Trib) (f : MirrorFields) (s : State) :
    s.applyMirror t f
      = (if requestFrameDue s.mirror (s.mirror.settings f) then (s.mirrored f).contactFrame .request
        else s.mirrored f).raiseProfile t := rfl

/-- The bays bound after a MIRROR request. -/
def State.boundAfter (f : MirrorFields) (s : State) : List Byte := boundBays (rebound s.ownBay f s.mirror.outputs)

theorem State.mirrored_bound (f : MirrorFields) (s : State) : (s.mirrored f).mirror.Bound = (· ∈ s.boundAfter f) := by
  funext b
  exact propext mem_boundBays_mirrorOutputs

section
variable {f : MirrorFields} {s : State}

theorem ne_ownBay_of_bound (h : BindingsLegal s) : ∀ b ∈ boundBays s.mirror.outputs, b ≠ s.ownBay := fun b hb => by
  obtain ⟨i, bd, hbd, rfl⟩ := mem_boundBays.mp hb
  exact (h i bd hbd).2

theorem State.mirrored_bindings (h : BindingsLegal s) : BindingsLegal (s.mirrored f) := fun i b hb => by
  simp only [State.mirrored, mirrorOutputs_binding] at hb
  exact newBinding_legal (h i) b hb

theorem ne_ownBay_of_boundAfter (h : BindingsLegal s) : ∀ b ∈ s.boundAfter f, b ≠ s.ownBay := fun b hb =>
  ne_ownBay_of_bound (State.mirrored_bindings (f := f) h) b (mem_boundBays_mirrorOutputs.mpr hb)

/-- The table after a MIRROR request holds at most 64 entries when there are slots for it (R34). -/
theorem State.mirrored_size (h : MirrorTable s.ownBay s.mirror.Bound (s.mirror.publish = true) s.table)
    (hsize : s.table.length ≤ 64)
    (hslots : ¬ freeSlots s.table < slotsNeeded (boundBays s.mirror.outputs)
      (boundBays (rebound s.ownBay f s.mirror.outputs)) (publishAfter f s.mirror.publish && !s.mirror.publish) s.table) :
    (s.mirrored f).table.length ≤ 64 := by
  have hjoined := length_memberships_le (boundBays_nodup (rebound s.ownBay f s.mirror.outputs))
    (before := boundBays s.mirror.outputs) h.joined (s.mirror.settings f).refresh
  have hlength := length_publishing_le (s.ownId 0) s.mirror.publish (s.mirror.settings f).publish
    (mirrorMemberships (boundBays s.mirror.outputs) (boundBays (rebound s.ownBay f s.mirror.outputs))
      (s.mirror.settings f).refresh s.table)
  unfold freeSlots slotsNeeded Config.tableSlots at hslots
  simp only [State.mirrored, Mirror.settings] at hlength hjoined ⊢
  omega

/-- A MIRROR request keeps the health of the entries of the bays bound after it. -/
theorem State.mirrored_entryHealth (h : MirrorTable s.ownBay s.mirror.Bound (s.mirror.publish = true) s.table)
    (hbind : BindingsLegal s) :
    ∀ b ∈ s.boundAfter f, entryHealth b (s.mirrored f).table = entryHealth b s.table := fun b hb => by
  have hmembers := h.memberships (ne_ownBay_of_bound hbind) (ne_ownBay_of_boundAfter (f := f) hbind)
    (s.mirror.settings f).refresh
  refine (entryHealth_publishing (ne_ownBay_of_boundAfter hbind b hb) (fun hoff => ?_) _).trans
    (entryHealth_memberships hb ..)
  rcases hf : findEntry ⟨s.ownBay, 0⟩ _ with _ | e
  · rfl
  · have hon := hmembers.contact.mp (Option.isSome_of_eq_some hf)
    rw [hoff] at hon
    cases hon

theorem State.mirrored_sources (h : StreamsLegal s) :
    SourcesLegal (· ∈ s.boundAfter f) (s.mirrored f).table (s.mirrored f).mirror.sources := by
  rw [streamsLegal_iff] at h
  obtain ⟨-, htab, hsources, hbind, -⟩ := h
  exact hsources.rebound (boundBays_nodup _) (State.mirrored_entryHealth htab hbind)

/-- The outputs show their safe levels after a MIRROR request: one whose binding stays as before, and one whose binding
changes because its source record has no data (R162). -/
theorem State.mirrored_safe (h : StreamsLegal s) : SafeLevels (s.mirrored f) := by
  intro i b hb r hr hv
  have hsources := State.mirrored_sources (f := f) h
  by_cases hsame : newBinding s.ownBay (f.bindings.get i) (s.mirror.outputs.get i).binding
      = (s.mirror.outputs.get i).binding
  · have hout : (s.mirrored f).mirror.outputs.get i = s.mirror.outputs.get i := by
      simp only [State.mirrored, mirrorOutputs, Oct.get_ofFn, if_pos hsame]
    rw [hout] at hb ⊢
    have hbound : b.bay ∈ s.boundAfter f := (hsources.found b.bay).mp (by rw [hr]; rfl)
    have hhealth : r.health = entryHealth b.bay s.table := by
      obtain ⟨-, htab, -⟩ := (streamsLegal_iff s).mp h
      rw [hsources.health r (List.mem_of_find?_eq_some hr), findSource_bay hr]
      exact State.mirrored_entryHealth htab h.table.bindings b.bay hbound
    exact (Mirror.Informed.of_linked h hhealth).safe i b hb rfl hv
  · have hout : (s.mirrored f).mirror.outputs.get i
        = ⟨newBinding s.ownBay (f.bindings.get i) (s.mirror.outputs.get i).binding,
          boundLevel (s.mirrored f).mirror.sources
            (newBinding s.ownBay (f.bindings.get i) (s.mirror.outputs.get i).binding)⟩ := by
      simp only [State.mirrored, mirrorOutputs, Oct.get_ofFn, if_neg hsame]
    rw [hout] at hb ⊢
    simp only [Option.mem_def] at hb hr
    have hnodata := hsources.noData r (List.mem_of_find?_eq_some hr) (hv.imp_right And.left)
    simp only [hb, boundLevel, hr, Option.bind_some, hnodata]

/-- The table and the mirror agree after a MIRROR request for which there are slots (R34, R160, R162). -/
theorem State.mirrored_streams (h : StreamsLegal s)
    (hslots : ¬ freeSlots s.table < slotsNeeded (boundBays s.mirror.outputs)
      (boundBays (rebound s.ownBay f s.mirror.outputs)) (publishAfter f s.mirror.publish && !s.mirror.publish) s.table) :
    StreamsLegal (s.mirrored f) := by
  have hsources := State.mirrored_sources (f := f) h
  have hsafe := State.mirrored_safe (f := f) h
  rw [streamsLegal_iff] at h ⊢
  obtain ⟨hsize, htab, -, hbind, -⟩ := h
  have hmembers := htab.memberships (ne_ownBay_of_bound hbind) (ne_ownBay_of_boundAfter (f := f) hbind)
    (s.mirror.settings f).refresh
  rw [State.mirrored_bound]
  exact ⟨State.mirrored_size htab hsize hslots,
    hmembers.publishing (fun hb => ne_ownBay_of_boundAfter hbind _ hb rfl) _, hsources, State.mirrored_bindings hbind, hsafe⟩

end

/-- The mirror after a MIRROR request in range is legal with a refresh timer that runs exactly while publishing is on
(R155 to R157). -/
theorem State.mirrored_mirror {f : MirrorFields} {s : State} (h : MirrorLegal s.mirror)
    (hrange : mirrorInRange s.ownBay f = true) {timer : Option Time}
    (htimer : timer.isSome = (s.mirrored f).mirror.publish) :
    MirrorLegal { (s.mirrored f).mirror with refreshTimer := timer } := by
  simp only [mirrorInRange, Bool.and_eq_true] at hrange
  obtain ⟨⟨⟨-, hdebounce⟩, hrefresh⟩, -⟩ := hrange
  refine ⟨within_replaced hdebounce h.debounce, within_replaced hrefresh h.refresh, h.runs, htimer, ?_,
    fun i hb => mirrorOutputs_unboundLow (h.unboundLow i) hb⟩
  simp only [State.mirrored, Mirror.settings]
  split
  · simp
  · rw [BitVec.and_assoc, BitVec.and_not_self]
    simp

theorem State.mirrored_records {f : MirrorFields} {s : State} (h : SupervisedLegal s)
    (hrange : mirrorInRange s.ownBay f = true) :
    ∀ e ∈ (s.mirrored f).table, RecordsLegal s.profile.skewLimit e := by
  simp only [mirrorInRange, Bool.and_eq_true] at hrange
  obtain ⟨⟨-, hrefresh⟩, -⟩ := hrange
  exact records_mirrorPublishing
    (records_mirrorMemberships h.records (within_replaced hrefresh h.mirror.refresh) _ _) _ _ _

end Sys2Proof.Machine
end

section
namespace Sys2Proof.Machine

/-! ### What a MIRROR request keeps -/

/-- The refresh timer runs exactly while publishing is on, also where no contact frame is due (R157). -/
theorem State.mirrored_timer {f : MirrorFields} {s : State} (h : MirrorLegal s.mirror)
    (hdue : requestFrameDue s.mirror (s.mirror.settings f) = false) :
    (s.mirrored f).mirror.refreshTimer.isSome = (s.mirrored f).mirror.publish := by
  have htimer := h.timer
  simp only [requestFrameDue, Mirror.settings, Bool.and_eq_false_iff, Bool.or_eq_false_iff, Bool.not_eq_false'] at hdue
  simp only [State.mirrored, Mirror.settings]
  rcases hdue with hoff | ⟨⟨hwas, -⟩, -⟩
  · simp [hoff]
  · cases publishAfter f s.mirror.publish
    · rfl
    · simpa [hwas] using htimer

theorem mirrorEffect_steady (t : Trib) (f : MirrorFields) (s : State) : Steady s (mirrorEffect t f s).state := by
  unfold mirrorEffect
  split
  · exact .refl s
  rename_i hrefused
  have hrange : mirrorInRange s.ownBay f = true := by simpa using hrefused
  split
  · exact .refl s
  rename_i hslots
  rw [Answer.done_state, State.applyMirror_eq]
  refine Steady.trans ?_ (State.raiseProfile_steady t _)
  split
  case isTrue hdue =>
    refine ⟨⟨fun h => h.congr (by rw [State.contactFrame_eq]; rfl),
      fun h => State.contactFrame_lines _ (h.congr rfl rfl rfl rfl),
      fun h => ?_, fun h => State.contactFrame_streams _ (State.mirrored_streams h hslots),
      fun h => by rw [State.contactFrame_eq]; exact h⟩, fun t => by rw [State.contactFrame_eq]; rfl⟩
    have hrecords := State.contactFrame_records .request (State.mirrored_records h hrange)
    refine ⟨?_, ?_⟩
    · rwa [show ((s.mirrored f).contactFrame .request).profile = (s.mirrored f).profile by rw [State.contactFrame_eq]]
    · have hpublish : (s.mirrored f).mirror.publish = true := by
        simp only [requestFrameDue, Bool.and_eq_true] at hdue
        exact hdue.1
      rw [State.contactFrame_eq]
      exact Mirror.framed_legal (State.mirrored_mirror h.mirror hrange (timer := some 0) hpublish.symm) hpublish _ _
  case isFalse hdue =>
    exact ⟨⟨fun h => h, fun h => h.congr rfl rfl rfl rfl,
      fun h => ⟨State.mirrored_records h hrange, State.mirrored_mirror h.mirror hrange
        (State.mirrored_timer h.mirror (by simpa using hdue))⟩,
      fun h => State.mirrored_streams h hslots, fun h => h⟩, fun _ => rfl⟩

/-! ### What every request keeps -/

theorem enableEffect_steady (line : Byte) (s : State) : Steady s (enableEffect line s).state := by
  unfold enableEffect
  split
  · exact .refl s
  rename_i l _
  split
  · exact .refl s
  rename_i hvalid
  split
  case h_1 hoff =>
    refine (s.startSearch_steady l (fun hp => ⟨le_refl _, hp.floors l⟩) (by simpa using hvalid) (by simp [hoff])).trans
      (State.raiseAll_steady .line _)
  case h_2 => exact .refl s
  case h_3 => exact .refl s

theorem disableEffect_steady (line : Byte) (s : State) : Steady s (disableEffect line s).state := by
  unfold disableEffect
  split
  · exact .refl s
  split
  · exact .refl s
  split
  · exact .refl s
  · exact s.turnOff_steady _

theorem restartEffect_steady (line : Byte) (s : State) : Steady s (restartEffect line s).state := by
  unfold restartEffect
  split
  · exact .refl s
  rename_i l _
  split
  case h_1 => exact .refl s
  case h_2 hsearch =>
    refine State.changeReceiver_steady l s
      (f := fun r => { r with level := s.floor l, dwellTimer := some (s.dueIn s.profile.dwell) }) rfl fun hp h => ?_
    exact ⟨hp.floors l, fun _ => le_refl _, iff_of_true rfl hsearch, h.quality, h.count, h.countBound⟩
  case h_3 hlocked => exact s.departForSearch_steady l (fun hp => ⟨le_refl _, hp.floors l⟩) (by simp [hlocked])

theorem readStreamEffect_state (id : StreamId) (s : State) : (readStreamEffect id s).state = s := by
  unfold readStreamEffect
  repeat' split
  all_goals rfl

theorem readLineEffect_state (line : Byte) (s : State) : (readLineEffect line s).state = s := by
  unfold readLineEffect
  split <;> rfl

/-- Every acting block keeps every part legal and every link as it was. -/
theorem actOf_steady (i : Instr) (s : State) : Steady s (actOf i s).state := by
  cases i
  case claim t index cls => exact claimEffect_steady t index cls s
  case release t index => exact releaseEffect_steady t index s
  case join t bay index p m => exact joinEffect_steady t _ _ _ s
  case leave t bay index => exact leaveEffect_steady t _ s
  case detach t => exact s.teardown_steady t
  case lineEnable t line => exact enableEffect_steady line s
  case lineDisable t line => exact disableEffect_steady line s
  case lineRestart t line => exact restartEffect_steady line s
  case setup t f => exact setupEffect_steady t f s
  case mirror t f => exact mirrorEffect_steady t f s
  case clear t kinds => exact s.changePort_steady t rfl fun h => Port.clearReports_legal h kinds
  case readStream t bay index =>
    show Steady s (readStreamEffect _ s).state
    rw [readStreamEffect_state]
    exact .refl s
  case readLine t line =>
    show Steady s (readLineEffect line s).state
    rw [readLineEffect_state]
    exact .refl s
  case readRing t => exact .of_same rfl rfl rfl rfl rfl rfl rfl rfl
  all_goals exact .refl s

/-- A request command keeps every part legal (R165). -/
theorem State.serve_kept (t : Trib) (i : Instr) (s : State) : Kept s (s.serve t i (actOf i)) := by
  rcases hs : s.serving t i with _ | r
  · rw [State.serve_of_none hs]
    exact .refl s
  · rw [State.serve_of_serving hs]
    exact State.execute_kept hs (actOf_steady i)

/-! ### What every event keeps -/

theorem execLinkUp_kept (t : Trib) {s u : State} (h : execLinkUp t s = .next u) : Kept s u := by
  unfold execLinkUp at h
  split at h <;> cases h
  · exact (Steady.setPublisherState t .active s).toKept.trans (State.changePort_kept t _ Port.linkPresent_legal)
  · exact .refl s

theorem execLinkDown_kept (t : Trib) {s u : State} (h : execLinkDown t s = .next u) : Kept s u := by
  unfold execLinkDown at h
  split at h
  · split at h <;> cases h
    · exact (State.changePort_kept t s fun _ => Port.linkLost_legal (s.ports.get t).holdTimer).trans
        (State.teardown_steady t _).toKept
    · exact (Steady.setPublisherState t .held s).toKept.trans
        (State.changePort_kept t _ fun _ => Port.linkLost_legal _)
  · cases h
    exact .refl s

theorem execTributaryFrameReceived_kept (t : Trib) (bytes : List Byte) {s u : State}
    (h : execTributaryFrameReceived t bytes s = .next u) : Kept s u := by
  have hgood : Steady s (s.changePort t Port.countGood) := s.changePort_steady t rfl fun h => h.counters _
  unfold execTributaryFrameReceived at h
  split at h
  · cases h
    exact .refl s
  rename_i hlink
  have hup : (s.ports.get t).link = .up := by cases hl : (s.ports.get t).link <;> simp_all
  split at h <;> cases h
  · exact s.changePort_kept t fun h => h.counters _
  · exact (hgood.trans (State.intake_steady ..)).toKept
  · refine hgood.toKept.trans (State.changePort_kept t _ fun h => Port.bufferRequest_legal h ?_ _)
    rw [hgood.links, hup]

/-- A claim-hold timer that expires belongs to a DOWN link, when its port is legal (R39). -/
theorem execClaimHoldExpiry_kept (t : Trib) {s u : State} (h : execClaimHoldExpiry t s = .next u) : Kept s u := by
  unfold execClaimHoldExpiry at h
  split at h <;> cases h
  case h_1 due _ =>
    refine ((s.advanceTo_steady due).trans (Steady.trans ?_ (State.teardown_steady t _))).toKept
    exact State.changePort_steady t _ rfl fun h => ⟨h.bounded, h.downEmpty, h.freeIdle, h.reportPending, fun _ => rfl⟩
  case h_2 => exact .refl s

theorem execLockAcquired_kept (l : Line) {s u : State} (h : execLockAcquired l s = .next u) : Kept s u := by
  unfold execLockAcquired at h
  split at h <;> cases h
  case h_1 hsearch => exact s.lock_kept l hsearch
  case h_2 => exact .refl s
  case h_3 => exact .refl s

theorem execLockLost_kept (l : Line) {s u : State} (h : execLockLost l s = .next u) : Kept s u := by
  unfold execLockLost at h
  split at h <;> cases h
  case h_1 hlocked =>
    refine ((s.countLine_steady l fun c => { c with lockLosses := c.lockLosses + 1 }).trans
      (State.departForSearch_steady l _ (fun hp => nextLevel_bounds (s.receivers.get l).level (hp.floors l)) ?_)).toKept
    simp [State.countLine, hlocked]
  case h_2 => exact .refl s
  case h_3 => exact .refl s

theorem execDwellExpiry_kept (l : Line) {s u : State} (h : execDwellExpiry l s = .next u) : Kept s u := by
  unfold execDwellExpiry at h
  split at h <;> cases h
  case h_1 due hsearch _ =>
    have hsearch' : ((s.advanceTo due).receivers.get l).state = .search := by simpa using hsearch
    refine ((s.advanceTo_steady due).trans (State.changeReceiver_steady l _ rfl fun hp h => ?_)).toKept
    obtain ⟨hlow, hhigh⟩ := stepLevel_bounds (hp.floors l) (h.searchLevel hsearch')
    exact ⟨hhigh, fun _ => hlow, iff_of_true rfl hsearch', h.quality, h.count, h.countBound⟩
  case h_2 => exact .refl s

theorem execQualityPeriodExpiry_kept (l : Line) {s u : State} (h : execQualityPeriodExpiry l s = .next u) :
    Kept s u := by
  unfold execQualityPeriodExpiry at h
  split at h <;> cases h
  case h_1 due hlocked _ =>
    refine ((s.advanceTo_steady due).trans (State.changeReceiver_steady l _ rfl fun hp h => ?_)).toKept
    exact ⟨h.level, h.searchLevel, h.dwell, iff_of_true rfl (by simpa using hlocked), fun _ => rfl, Nat.zero_le _⟩
  case h_2 => exact .refl s

theorem execLineFrameReceived_kept (l : Line) (bytes : List Byte) {s u : State}
    (h : execLineFrameReceived l bytes s = .next u) : Kept s u := by
  unfold execLineFrameReceived at h
  split at h
  case isTrue hopen =>
    split at h <;> cases h
    · exact (s.countLine_steady l _).toKept
    · exact (s.checkFailure_steady l ((s.isOpen_iff l).mp hopen)).toKept
    · exact (s.countLine_steady l _).toKept
    · exact ((s.countLine_steady l _).trans (State.takeFrame_steady l _ _)).toKept
  case isFalse =>
    cases h
    exact (s.countLine_steady l _).toKept

theorem execLineEndOfTransmission_kept (l : Line) (of : Ended) {s u : State}
    (h : execLineEndOfTransmission l of s = .next u) : Kept s u := by
  unfold execLineEndOfTransmission at h
  split at h <;> cases h
  · exact .of_lines rfl rfl rfl rfl rfl (fun h => h) fun h =>
      h.of_egress l rfl rfl rfl rfl (Egress.endOfTransmission_legal h.profile (h.egresses l))
  · exact .refl s

theorem execBeaconTimerExpiry_kept {s u : State} (h : execBeaconTimerExpiry s = .next u) : Kept s u := by
  unfold execBeaconTimerExpiry at h
  split at h <;> obtain rfl := Host.Outcome.next.inj h
  case h_1 due hdue =>
    refine ((s.advanceTo_steady due).trans (Steady.trans (.of_ring fun h => ?_) (State.emitBeacon_steady _))).toKept
    exact h.restarted (due := due) (by simpa using hdue) _
  case h_2 => exact .refl s

theorem execRosterExpiry_kept (bay : Byte) (l : Line) {s u : State} (h : execRosterExpiry bay l s = .next u) :
    Kept s u := by
  unfold execRosterExpiry at h
  split at h <;> cases h
  · exact ((s.advanceTo_steady _).trans (.of_ring fun h => removePart_legal h bay l)).toKept
  · exact .refl s

theorem execSilenceTimerExpiry_kept (bay index : Byte) (l : Line) {s u : State}
    (h : execSilenceTimerExpiry bay index l s = .next u) : Kept s u := by
  unfold execSilenceTimerExpiry at h
  split at h
  case h_2 =>
    cases h
    exact .refl s
  rename_i e he
  split at h
  case h_2 =>
    cases h
    exact .refl s
  rename_i sup hsup
  split at h <;> cases h
  case h_1 due hdue =>
    refine ((s.advanceTo_steady due).trans (State.silenceExpire_steady ?_ hsup (by rw [hdue]; rfl))).toKept
    rw [State.find_congr (State.advanceTo_table due s), he]
  case h_2 => exact .refl s

theorem execRefreshTimerExpiry_kept {s u : State} (h : execRefreshTimerExpiry s = .next u) : Kept s u := by
  unfold execRefreshTimerExpiry at h
  split at h
  · split at h <;> cases h
    · rename_i hpublish
      exact ((s.advanceTo_steady _).trans (State.contactFrame_steady .refresh (by simpa using hpublish))).toKept
    · exact .refl s
  · cases h
    exact .refl s

theorem execContactSample_kept (levels : Byte) {s u : State} (h : execContactSample levels s = .next u) :
    Kept s u := by
  cases h
  exact ((s.advanceTo_steady _).trans (State.contactSample_steady levels _)).toKept

theorem execTributaryEndOfTransmission_kept (t : Trib) (of : Ended) {s u : State}
    (h : execTributaryEndOfTransmission t of s = .next u) : Kept s u := by
  unfold execTributaryEndOfTransmission at h
  split at h <;> cases h
  · exact State.changePort_kept t s Port.endOfTransmission_legal
  · exact .refl s

end Sys2Proof.Machine
end

section
namespace Sys2Proof.Machine

/-! ### The state after a reset is legal (R2, R16, R83, R104, R121, R136, R155, R160, R168) -/

/-- A port after reset is DOWN and holds nothing (R83). -/
theorem Port.initial_legal : PortLegal Port.initial where
  bounded := by simp [PortBounded, Port.initial]
  downEmpty _ := by simp [Port.initial]
  freeIdle _ := by simp [Port.initial]
  reportPending h := by cases h
  upUntimed h := by cases h

theorem Profile.initial_legal (lapsel : BitVec 2) : ProfileLegal (Profile.initial lapsel) where
  lapBudget := by
    have := lapsel.isLt
    have hcases : lapsel = 0#2 ∨ lapsel = 1#2 ∨ lapsel = 2#2 ∨ lapsel = 3#2 := by bv_omega
    rcases hcases with rfl | rfl | rfl | rfl <;> decide
  beaconInterval := by simp [Profile.initial]
  claimHold := by simp [Profile.initial]
  serviceList := by simp [Profile.initial, defaultServiceList]
  named q := by
    cases q with
    | loc t => cases t <;> simp [Profile.initial, defaultServiceList]
    | fwd => simp [Profile.initial, defaultServiceList]
    | own => simp [Profile.initial, defaultServiceList]
  urgentBurst := by simp [Profile.initial]
  floors l := by cases l <;> simp [Profile.initial, Pair.get]
  dwell := by simp [Profile.initial]
  qualityPeriod := by simp [Profile.initial]
  qualityThreshold := by simp [Profile.initial]
  skewLimit := by simp [Profile.initial]

/-- A receiver after reset is in SEARCH at level 0, or OFF where the own bay is invalid (R104, R114). -/
theorem Receiver.initial_legal (valid : Bool) : ReceiverLegal 0 (Receiver.initial valid) := by
  cases valid <;> constructor <;> simp [Receiver.initial]

theorem Egress.initial_legal (isOpen : Bool) (lapsel : BitVec 2) :
    EgressLegal isOpen (Profile.initial lapsel) Egress.initial where
  capacity q := by
    rcases q with _ | q
    · exact Nat.zero_le _
    · cases q with
      | loc t => cases t <;> exact Nat.zero_le _
      | fwd => exact Nat.zero_le _
      | own => exact Nat.zero_le _
  closedEmpty _ := rfl
  freeIdle _ := rfl
  credit := le_refl _
  position := by simp [Egress.initial, Profile.initial, defaultServiceList]

theorem RingUnit.initial_legal (valid : Bool) : RingLegal valid (RingUnit.initial valid) where
  timer := by cases valid <;> rfl
  tally := Nat.zero_le _
  unknown := by simp [RingUnit.initial]
  outstanding y := by cases y <;> exact Nat.zero_le _
  distinct y := by cases y <;> exact List.nodup_nil
  ages y := by cases y <;> exact le_refl _
  nodes y := by cases y <;> simp [RingUnit.initial, Pair.get]
  rosterSize := Nat.zero_le _
  rosterOrdered := List.Pairwise.nil
  rosterParts := by simp [RingUnit.initial]
  rosterHops := by simp [RingUnit.initial]

theorem Mirror.initial_output (levels : Byte) (i : Fin 8) : (Mirror.initial levels).outputs.get i = ⟨none, false⟩ := by
  simp [Mirror.initial]

theorem Mirror.initial_input (levels : Byte) (i : Fin 8) :
    (Mirror.initial levels).inputs.get i = ⟨levels.getLsbD i.val, 0⟩ := by
  simp [Mirror.initial]

theorem Mirror.initial_legal (levels : Byte) : MirrorLegal (Mirror.initial levels) where
  debounce := by simp [Mirror.initial]
  refresh := by simp [Mirror.initial]
  runs i := by simp [Mirror.initial_input]
  timer := rfl
  changed := by simp [Mirror.initial]
  unboundLow i _ := by rw [Mirror.initial_output]

/-- After reset no output is bound (R160). -/
theorem boundBays_initial (levels : Byte) : boundBays (Mirror.initial levels).outputs = [] := rfl

theorem State.powerOn_streams (bay : Byte) (lapsel : BitVec 2) (inputs : Byte) :
    StreamsLegal (State.powerOn bay lapsel inputs) where
  table :=
    { size := Nat.zero_le _
      ordered := List.Pairwise.nil
      entries := by simp [State.powerOn]
      contact := iff_of_false (by simp [State.find, findEntry, State.powerOn]) (by simp [State.powerOn, Mirror.initial])
      bindings := fun i b hb => by simp [State.powerOn, Mirror.initial_output] at hb }
  linked :=
    { members := by simp [State.powerOn]
      joined := fun b hb =>
        absurd (show b ∈ boundBays (Mirror.initial inputs).outputs from hb) (by simp [boundBays_initial])
      sources := fun b => iff_of_false (by simp [State.powerOn, Mirror.initial, findSource])
        (show b ∉ boundBays (Mirror.initial inputs).outputs by simp [boundBays_initial])
      ordered := List.Pairwise.nil
      health := by simp [State.powerOn, Mirror.initial]
      noData := by simp [State.powerOn, Mirror.initial] }
  safe i b hb := by simp [State.powerOn, Mirror.initial_output] at hb

theorem State.powerOn_lines (bay : Byte) (lapsel : BitVec 2) (inputs : Byte) :
    LinesLegal (State.powerOn bay lapsel inputs) where
  profile := Profile.initial_legal lapsel
  receivers := by
    refine ⟨fun l => ?_, fun hvalid l => ?_⟩
    · cases l <;> exact Receiver.initial_legal (validBay bay)
    · have hvalid' : validBay bay = false := hvalid
      cases l <;> simp [State.powerOn, Pair.get, Receiver.initial, hvalid']
  egresses l := by cases l <;> exact Egress.initial_legal _ lapsel

/-- The state after a power-on reset is legal, with any straps and levels. -/
theorem State.powerOn_legal (bay : Byte) (lapsel : BitVec 2) (inputs : Byte) :
    Legal (State.powerOn bay lapsel inputs) := by
  refine (legal_iff _).mpr ⟨fun t => ?_, State.powerOn_lines bay lapsel inputs,
    ⟨by simp [State.powerOn], Mirror.initial_legal inputs⟩, State.powerOn_streams bay lapsel inputs,
    RingUnit.initial_legal (validBay bay)⟩
  rw [show (State.powerOn bay lapsel inputs).ports.get t = Port.initial from Quad.get_ofFn _ _]
  exact Port.initial_legal

/-- Settles O6: the reset state of the model is one of those after a power-on reset. -/
theorem resetLegal : Obligations.ResetLegal :=
  ⟨State.powerOn_legal, State.powerOn_legal 12 1 0⟩

/-! ### What every step keeps -/

theorem execPowerOnReset_kept (bay : Byte) (lapsel : BitVec 2) (inputs : Byte) {s u : State}
    (h : execPowerOnReset bay lapsel inputs s = .next u) : Kept s u := by
  cases h
  obtain ⟨hports, hlines, hsupervised, hstreams, hring⟩ := (legal_iff _).mp (State.powerOn_legal bay lapsel inputs)
  exact ⟨fun _ => hports.congr rfl, fun _ => hlines.congr rfl rfl rfl rfl, fun _ => hsupervised.congr rfl rfl rfl,
    fun _ => hstreams.congr rfl rfl rfl, fun _ => hring⟩

/-- Every command keeps every part legal. -/
theorem exec_kept {i : Instr} {s u : State} (h : exec i s = .next u) : Kept s u := by
  rcases hi : requestOf i with _ | ⟨t, code, fields⟩
  · cases i
    case powerOnReset bay lapsel inputs => exact execPowerOnReset_kept bay lapsel inputs h
    case linkUp t => exact execLinkUp_kept t h
    case linkDown t => exact execLinkDown_kept t h
    case tributaryFrameReceived t bytes => exact execTributaryFrameReceived_kept t bytes h
    case tributaryEndOfTransmission t of => exact execTributaryEndOfTransmission_kept t of h
    case claimHoldExpiry t => exact execClaimHoldExpiry_kept t h
    case lockAcquired l => exact execLockAcquired_kept l h
    case lockLost l => exact execLockLost_kept l h
    case dwellExpiry l => exact execDwellExpiry_kept l h
    case qualityPeriodExpiry l => exact execQualityPeriodExpiry_kept l h
    case lineFrameReceived l bytes => exact execLineFrameReceived_kept l bytes h
    case lineEndOfTransmission l of => exact execLineEndOfTransmission_kept l of h
    case beaconTimerExpiry => exact execBeaconTimerExpiry_kept h
    case rosterExpiry bay l => exact execRosterExpiry_kept bay l h
    case silenceTimerExpiry bay index l => exact execSilenceTimerExpiry_kept bay index l h
    case contactSample levels => exact execContactSample_kept levels h
    case refreshTimerExpiry => exact execRefreshTimerExpiry_kept h
    all_goals cases hi
  · rw [exec_request hi] at h
    cases h
    exact State.serve_kept t i s

/-- Every step keeps every part legal. -/
theorem step_kept {s u : State} (h : step s = .next u) : Kept s u := by
  unfold step at h
  split at h
  next rest _ =>
    have hrest : Steady s { s with pending := rest } := .of_same rfl rfl rfl rfl rfl rfl rfl rfl
    exact hrest.toKept.trans (exec_kept h)
  · split at h
    · exact exec_kept h
    · cases h
      have htick : Steady s s.tick := .of_same rfl rfl rfl rfl rfl rfl rfl rfl
      exact htick.toKept

/-- Settles O59, part by part: ports, lines, records, streams and the ring unit. -/
theorem legalKept : Obligations.LegalKept := fun _ _ hs h => (step_kept h).legal hs

end Sys2Proof.Machine
end

section
namespace Sys2Proof.Machine

/-! ### POWER_ON_RESET -/

/-- The lap budget that the LAPSEL straps select (R168). -/
theorem lapselBudget_eq (lapsel : BitVec 2) : lapselBudget lapsel = [8, 16, 32, 63].getD lapsel.toNat 0 := by
  have hcases : lapsel = 0#2 ∨ lapsel = 1#2 ∨ lapsel = 2#2 ∨ lapsel = 3#2 := by bv_omega
  rcases hcases with rfl | rfl | rfl | rfl <;> rfl

/-- A bay is invalid when it is 0 or 255 (R2). -/
theorem validBay_eq_ite (bay : Byte) : validBay bay = if bay = 0 ∨ bay = 255 then false else true := by
  by_cases h : bay = 0 ∨ bay = 255
  · rw [if_pos h]
    rcases h with rfl | rfl <;> rfl
  · rw [if_neg h]
    simpa [validBay] using h

/-- Settles O5, block by block. -/
theorem powerOnReset : Obligations.PowerOnReset := by
  intro bay lapsel inputs s
  refine ⟨_, rfl, rfl, rfl, rfl, rfl, rfl, rfl, rfl, ?_, fun t => ?_, fun l => ?_, fun l => ?_, ?_, fun n => ?_, rfl⟩
  · rw [← lapselBudget_eq]
    rfl
  · cases t <;> rfl
  · have h : (State.powerOn bay lapsel inputs).receivers.get l = Receiver.initial (validBay bay) := by cases l <;> rfl
    rw [show _ = Receiver.initial (validBay bay) from h, validBay_eq_ite]
    split <;> rfl
  · cases l <;> rfl
  · show RingUnit.initial (validBay bay) = _
    rw [validBay_eq_ite]
    split <;> rfl
  · exact ⟨Mirror.initial_input inputs n, Mirror.initial_output inputs n⟩

end Sys2Proof.Machine
end

section
namespace Sys2Proof.Machine

/-! ### The steps of the part's own (log 4) -/

theorem exists_line {p : Line → Prop} : (∃ l : Line, p l) ↔ p .a ∨ p .b :=
  ⟨fun ⟨l, h⟩ => by cases l <;> simp [h], fun h => h.elim (⟨.a, ·⟩) (⟨.b, ·⟩)⟩

theorem exists_trib_of_all {p : Trib → Prop} : (∃ t ∈ Trib.all, p t) ↔ ∃ t : Trib, p t :=
  ⟨fun ⟨t, _, h⟩ => ⟨t, h⟩, fun ⟨t, h⟩ => ⟨t, by cases t <;> simp [Trib.all], h⟩⟩

theorem mem_dueSilence {now : Time} {e : Entry} {x : Option Instr} :
    x ∈ dueSilence now e ↔
      ∃ sup ∈ e.sup, ∃ l : Line,
        x = dueCommand now (sup.silence.get l) (.silenceTimerExpiry e.id.bay e.id.index l) := by
  cases h : e.sup <;> simp [dueSilence, h, exists_line, Pair.get]

theorem mem_dueRoster {now : Time} {r : RosterRecord} {x : Option Instr} :
    x ∈ dueRoster now r ↔
      ∃ l : Line, x = dueCommand now ((r.parts.get l).map fun p => p.expiry) (.rosterExpiry r.bay l) := by
  simp [dueRoster, exists_line, Pair.get]

/-- The steps the part could take: a request, and one for each timer. -/
theorem State.mem_ownSteps (s : State) (x : Option Instr) :
    x ∈ s.ownSteps ↔
      x = s.nextRequest.map (fun r => r.2.command r.1)
      ∨ (∃ t : Trib, x = dueCommand s.timeBase (s.ports.get t).holdTimer (.claimHoldExpiry t))
      ∨ (∃ l : Line, x = dueCommand s.timeBase (s.receivers.get l).dwellTimer (.dwellExpiry l))
      ∨ (∃ l : Line, x = dueCommand s.timeBase (s.receivers.get l).qualityTimer (.qualityPeriodExpiry l))
      ∨ (∃ e ∈ s.table, ∃ sup ∈ e.sup, ∃ l : Line,
          x = dueCommand s.timeBase (sup.silence.get l) (.silenceTimerExpiry e.id.bay e.id.index l))
      ∨ x = dueCommand s.timeBase s.ring.beaconTimer .beaconTimerExpiry
      ∨ (∃ rec ∈ s.ring.roster, ∃ l : Line,
          x = dueCommand s.timeBase ((rec.parts.get l).map fun p => p.expiry) (.rosterExpiry rec.bay l))
      ∨ x = dueCommand s.timeBase (some s.mirror.sampleDue) (.contactSample s.inPins)
      ∨ x = dueCommand s.timeBase s.mirror.refreshTimer .refreshTimerExpiry := by
  simp only [State.ownSteps, List.mem_append, List.mem_flatMap, mem_dueSilence, mem_dueRoster, List.mem_map,
    exists_trib_of_all, List.mem_cons, List.not_mem_nil, or_false, or_assoc, eq_comm (b := x), exists_line, Pair.get]

/-- A step the part takes by itself is the request the request unit takes next, or the event of a timer that is due. -/
theorem State.ownStep_due {s : State} {i : Instr} (h : s.ownStep = some i) :
    (∃ (t : Trib) (r : Request), s.nextRequest = some (t, r) ∧ i = r.command t)
    ∨ (∃ (t : Trib), ∃ due ∈ (s.ports.get t).holdTimer, i = .claimHoldExpiry t ∧ reached s.timeBase due = true)
    ∨ (∃ (l : Line), ∃ due ∈ (s.receivers.get l).dwellTimer, i = .dwellExpiry l ∧ reached s.timeBase due = true)
    ∨ (∃ (l : Line), ∃ due ∈ (s.receivers.get l).qualityTimer,
        i = .qualityPeriodExpiry l ∧ reached s.timeBase due = true)
    ∨ (∃ e ∈ s.table, ∃ sup ∈ e.sup, ∃ (l : Line), ∃ due ∈ sup.silence.get l,
        i = .silenceTimerExpiry e.id.bay e.id.index l ∧ reached s.timeBase due = true)
    ∨ (∃ due ∈ s.ring.beaconTimer, i = .beaconTimerExpiry ∧ reached s.timeBase due = true)
    ∨ (∃ rec ∈ s.ring.roster, ∃ (l : Line), ∃ part ∈ rec.parts.get l,
        i = .rosterExpiry rec.bay l ∧ reached s.timeBase part.expiry = true)
    ∨ (i = .contactSample s.inPins ∧ reached s.timeBase s.mirror.sampleDue = true)
    ∨ (∃ due ∈ s.mirror.refreshTimer, i = .refreshTimerExpiry ∧ reached s.timeBase due = true) := by
  rcases (s.mem_ownSteps (some i)).mp (State.ownStep_mem h) with hr | ⟨t, ht⟩ | ⟨l, hl⟩ | ⟨l, hl⟩ |
    ⟨e, he, sup, hsup, l, hl⟩ | hb | ⟨rec, hrec, l, hl⟩ | hs | hf
  · obtain ⟨⟨t, r⟩, hn, hi⟩ := Option.map_eq_some_iff.mp hr.symm
    exact .inl ⟨t, r, hn, hi.symm⟩
  · obtain ⟨rfl, due, hdue, hreach⟩ := dueCommand_eq_some.mp ht.symm
    exact .inr (.inl ⟨t, due, hdue, rfl, hreach⟩)
  · obtain ⟨rfl, due, hdue, hreach⟩ := dueCommand_eq_some.mp hl.symm
    exact .inr (.inr (.inl ⟨l, due, hdue, rfl, hreach⟩))
  · obtain ⟨rfl, due, hdue, hreach⟩ := dueCommand_eq_some.mp hl.symm
    exact .inr (.inr (.inr (.inl ⟨l, due, hdue, rfl, hreach⟩)))
  · obtain ⟨rfl, due, hdue, hreach⟩ := dueCommand_eq_some.mp hl.symm
    exact .inr (.inr (.inr (.inr (.inl ⟨e, he, sup, hsup, l, due, hdue, rfl, hreach⟩))))
  · obtain ⟨rfl, due, hdue, hreach⟩ := dueCommand_eq_some.mp hb.symm
    exact .inr (.inr (.inr (.inr (.inr (.inl ⟨due, hdue, rfl, hreach⟩)))))
  · obtain ⟨rfl, due, hdue, hreach⟩ := dueCommand_eq_some.mp hl.symm
    obtain ⟨part, hpart, rfl⟩ := Option.map_eq_some_iff.mp hdue
    exact .inr (.inr (.inr (.inr (.inr (.inr (.inl ⟨rec, hrec, l, part, hpart, rfl, hreach⟩))))))
  · obtain ⟨rfl, due, hdue, hreach⟩ := dueCommand_eq_some.mp hs.symm
    cases hdue
    exact .inr (.inr (.inr (.inr (.inr (.inr (.inr (.inl ⟨rfl, hreach⟩)))))))
  · obtain ⟨rfl, due, hdue, hreach⟩ := dueCommand_eq_some.mp hf.symm
    exact .inr (.inr (.inr (.inr (.inr (.inr (.inr (.inr ⟨due, hdue, rfl, hreach⟩)))))))

/-- A timer that gives no command has not reached its due reading. -/
theorem not_reached_of_dueCommand {now : Time} {timer : Option Time} {i : Instr} (h : dueCommand now timer i = none) :
    ∀ due ∈ timer, reached now due = false := by
  rintro due rfl
  simpa [dueCommand] using h

/-- The request that the request unit takes next comes before any timer. -/
theorem State.ownStep_of_nextRequest {s : State} {t : Trib} {r : Request} (h : s.nextRequest = some (t, r)) :
    s.ownStep = some (r.command t) := by
  simp [State.ownStep, State.ownSteps, h]

/-- Settles O2: the step of the part's own is one of those listed, and none of them is due where there is none. -/
theorem idleStep : Obligations.IdleStep := by
  refine ⟨fun s hs => ⟨fun h => ?_, fun i h => ?_, fun t r h => State.ownStep_of_nextRequest h,
    fun i h => State.ownStep_due h, fun h => ?_⟩, reached_iff, fun due s => ?_⟩
  · simp [step, hs, h, State.tick]
  · simp [step, hs, h]
  · have hnone : ∀ x ∈ s.ownSteps, x = none := State.ownStep_none h
    simp only [State.mem_ownSteps] at hnone
    refine ⟨by simpa using hnone _ (.inl rfl), fun t => ?_, fun l => ?_, fun l => ?_, fun e he sup hsup l => ?_, ?_,
      fun rec hrec l part hpart => ?_, ?_, ?_⟩
    · exact not_reached_of_dueCommand (hnone _ (.inr (.inl ⟨t, rfl⟩)))
    · exact not_reached_of_dueCommand (hnone _ (.inr (.inr (.inl ⟨l, rfl⟩))))
    · exact not_reached_of_dueCommand (hnone _ (.inr (.inr (.inr (.inl ⟨l, rfl⟩)))))
    · exact not_reached_of_dueCommand (hnone _ (.inr (.inr (.inr (.inr (.inl ⟨e, he, sup, hsup, l, rfl⟩))))))
    · exact not_reached_of_dueCommand (hnone _ (.inr (.inr (.inr (.inr (.inr (.inl rfl)))))))
    · exact not_reached_of_dueCommand (hnone _ (.inr (.inr (.inr (.inr (.inr (.inr (.inl ⟨rec, hrec, l, rfl⟩)))))))) _
        (Option.mem_map_of_mem (fun p : RosterPart => p.expiry) hpart)
    · exact not_reached_of_dueCommand (hnone _ (.inr (.inr (.inr (.inr (.inr (.inr (.inr (.inl rfl)))))))) ) _ rfl
    · exact not_reached_of_dueCommand (hnone _ (.inr (.inr (.inr (.inr (.inr (.inr (.inr (.inr rfl)))))))))
  · unfold State.advanceTo
    by_cases h : reached s.timeBase due = true
    · rw [if_pos h]
      exact ⟨rfl, fun _ => rfl, fun hlt => absurd ((reached_iff _ _).mp h) (by omega)⟩
    · rw [if_neg h]
      exact ⟨rfl, fun hle => absurd ((reached_iff _ _).mpr hle) h, fun _ => rfl⟩

end Sys2Proof.Machine
end

section
namespace Sys2Proof.Machine

/-! ### Who changes the common settings -/

/-- The settings of the part that several blocks read, with the model's own fields. -/
structure Shared where
  inPins : Byte
  freeCount : Nat
  ownBay : Byte
  timeBase : Time
  profile : Profile
  pointer : Trib

def State.shared (s : State) : Shared := ⟨s.inPins, s.freeCount, s.ownBay, s.timeBase, s.profile, s.pointer⟩

@[simp] theorem State.changePort_shared (t : Trib) (f : Port → Port) (s : State) :
    (s.changePort t f).shared = s.shared := rfl

@[simp] theorem State.raiseAll_shared (k : ReportKind) (s : State) : (s.raiseAll k).shared = s.shared := rfl

@[simp] theorem State.raiseProfile_shared (t : Trib) (s : State) : (s.raiseProfile t).shared = s.shared := rfl

@[simp] theorem State.offerDataTo_shared (m : Members) (urgent : Bool) (r : DeliveryRecord) (s : State) :
    (s.offerDataTo m urgent r).shared = s.shared := rfl

@[simp] theorem State.changeReceiver_shared (l : Line) (f : Receiver → Receiver) (s : State) :
    (s.changeReceiver l f).shared = s.shared := rfl

@[simp] theorem State.changeRing_shared (f : RingUnit → RingUnit) (s : State) :
    (s.changeRing f).shared = s.shared := rfl

@[simp] theorem State.countRing_shared (f : RingCounters → RingCounters) (s : State) :
    (s.countRing f).shared = s.shared := rfl

@[simp] theorem State.countLine_shared (l : Line) (f : ReceiverCounters → ReceiverCounters) (s : State) :
    (s.countLine l f).shared = s.shared := rfl

@[simp] theorem State.offerLine_shared (l : Line) (q : QueueName) (f : RingFrame) (s : State) :
    (s.offerLine l q f).shared = s.shared := rfl

@[simp] theorem State.departForSearch_shared (l : Line) (level : Nat) (s : State) :
    (s.departForSearch l level).shared = s.shared := rfl

@[simp] theorem State.teardown_shared (t : Trib) (s : State) : (s.teardown t).shared = s.shared := rfl

@[simp] theorem State.bayClash_shared (s : State) : s.bayClash.shared = s.shared := rfl

@[simp] theorem State.turnOff_shared (l : Line) (s : State) : (s.turnOff l).shared = s.shared := by
  unfold State.turnOff
  dsimp only
  split <;> rfl

@[simp] theorem State.checkFailure_shared (l : Line) (s : State) : (s.checkFailure l).shared = s.shared := by
  unfold State.checkFailure
  dsimp only
  split
  · rw [State.departForSearch_shared, State.changeReceiver_shared, State.changeReceiver_shared]
  · rfl

@[simp] theorem State.arrive_shared (a : Arrival) (s : State) : (s.arrive a).shared = s.shared := by
  rcases he : s.find a.id with _ | e
  · simp [State.arrive, he]
  · rcases hs : e.sup with _ | sup
    · simp [State.arrive, he, hs]
    · rw [State.arrive_eq he hs]
      rfl

@[simp] theorem State.silenceExpire_shared (id : StreamId) (x : Line) (e : Entry) (sup : Supervision) (s : State) :
    (s.silenceExpire id x e sup).shared = s.shared := by
  rw [State.silenceExpire_eq]
  rfl

@[simp] theorem State.silenceExpire_ring (id : StreamId) (x : Line) (e : Entry) (sup : Supervision) (s : State) :
    (s.silenceExpire id x e sup).ring = s.ring := by
  rw [State.silenceExpire_eq]

@[simp] theorem State.contactFrame_shared (k : ContactFrameKind) (s : State) :
    (s.contactFrame k).shared = s.shared := by
  rw [State.contactFrame_eq]
  rfl

@[simp] theorem State.contactFrame_ring (k : ContactFrameKind) (s : State) : (s.contactFrame k).ring = s.ring := by
  rw [State.contactFrame_eq]

/-- A sample shares its levels as those last seen, and nothing else (log 12). -/
@[simp] theorem State.contactSample_shared (levels : Byte) (s : State) :
    (s.contactSample levels).shared = { s.shared with inPins := levels } := by
  unfold State.contactSample
  dsimp only
  split
  · rw [State.contactFrame_shared]
    rfl
  · rfl

@[simp] theorem State.contactSample_ring (levels : Byte) (s : State) : (s.contactSample levels).ring = s.ring := by
  unfold State.contactSample
  dsimp only
  split
  · rw [State.contactFrame_ring]
  · rfl

@[simp] theorem State.forward_shared (x : Line) (f : RingFrame) (s : State) : (s.forward x f).shared = s.shared := by
  unfold State.forward
  split <;> rfl

@[simp] theorem State.takeFrame_shared (x : Line) (f : RingFrame) (s : State) :
    (s.takeFrame x f).shared = s.shared := by
  unfold State.takeFrame State.takeStream State.offerDelivery State.takeOwnBeacon State.takeForeignBeacon
  repeat' split
  all_goals simp

@[simp] theorem State.sendBeacon_shared (l : Line) (f : RingFrame) (s : State) :
    (s.sendBeacon l f).shared = s.shared := by
  unfold State.sendBeacon
  repeat' split
  all_goals rfl

@[simp] theorem State.emitBeacon_shared (s : State) : s.emitBeacon.shared = s.shared := by
  unfold State.emitBeacon
  dsimp only
  split <;> simp

theorem State.applyMirror_shared (t : Trib) (f : MirrorFields) (s : State) :
    (s.applyMirror t f).shared = s.shared := by
  rw [State.applyMirror_eq]
  split
  · rw [State.raiseProfile_shared, State.contactFrame_shared]
    rfl
  · rfl

theorem State.applyMirror_ring (t : Trib) (f : MirrorFields) (s : State) : (s.applyMirror t f).ring = s.ring := by
  rw [State.applyMirror_eq]
  split
  · rw [State.raiseProfile_ring, State.contactFrame_ring]
    rfl
  · rfl

/-! ### What a command changes of the common settings -/

/-- A command `i` from `s` to `u` changes of the common settings only those that it may. -/
structure Owned (i : Instr) (s u : State) : Prop where
  ownBay : u.ownBay = s.ownBay
  profile : (∀ t f, i ≠ .setup t f) → u.profile = s.profile
  pointer : requestOf i = none → u.pointer = s.pointer
  timeBase : isTimerEvent i = false → u.timeBase = s.timeBase
  inPins : (∀ levels, i ≠ .contactSample levels) → u.inPins = s.inPins
  freeCount : (∀ t, i ≠ .readRing t) → u.freeCount = s.freeCount
  ring : (∀ l bytes, i ≠ .lineFrameReceived l bytes) → (∀ bay l, i ≠ .rosterExpiry bay l) → i ≠ .beaconTimerExpiry →
    u.ring = s.ring

theorem Owned.of_shared {i : Instr} {s u : State} (h : u.shared = s.shared)
    (hring : (∀ l bytes, i ≠ .lineFrameReceived l bytes) → (∀ bay l, i ≠ .rosterExpiry bay l) →
      i ≠ .beaconTimerExpiry → u.ring = s.ring) : Owned i s u where
  ownBay := congrArg Shared.ownBay h
  profile _ := congrArg Shared.profile h
  pointer _ := congrArg Shared.pointer h
  timeBase _ := congrArg Shared.timeBase h
  inPins _ := congrArg Shared.inPins h
  freeCount _ := congrArg Shared.freeCount h
  ring := hring

theorem Owned.refl (i : Instr) (s : State) : Owned i s s := .of_shared rfl fun _ _ _ => rfl

/-- An event of a timer, which moves the time base besides what the rest of it does. -/
theorem Owned.of_timer {i : Instr} {due : Time} {s u : State} (htimer : isTimerEvent i = true)
    (h : Owned i (s.advanceTo due) u) : Owned i s u where
  ownBay := by simpa using h.ownBay
  profile := by simpa using h.profile
  pointer := by simpa using h.pointer
  timeBase hno := by simp [htimer] at hno
  inPins := by simpa using h.inPins
  freeCount := by simpa using h.freeCount
  ring := by simpa using h.ring

/-! ### Requests -/

/-- What a request's acting block leaves of the common settings: all but the profile of a SETUP and the count of free
values of a READ RING. -/
structure ActKeeps (i : Instr) (s u : State) : Prop where
  shared : u.shared = { s.shared with profile := u.profile, freeCount := u.freeCount }
  profile : (∀ t f, i ≠ .setup t f) → u.profile = s.profile
  freeCount : (∀ t, i ≠ .readRing t) → u.freeCount = s.freeCount
  ring : u.ring = s.ring

theorem ActKeeps.of_shared {i : Instr} {s u : State} (h : u.shared = s.shared) (hring : u.ring = s.ring) :
    ActKeeps i s u := by
  have hp : u.profile = s.profile := congrArg Shared.profile h
  have hf : u.freeCount = s.freeCount := congrArg Shared.freeCount h
  exact ⟨by rw [h, hp, hf]; rfl, fun _ => hp, fun _ => hf, hring⟩

theorem claimEffect_keeps (t : Trib) (index cls : Byte) (s : State) :
    ActKeeps (.claim t index cls) s (claimEffect t index cls s).state := by
  unfold claimEffect
  repeat' split
  all_goals exact .of_shared rfl rfl

theorem releaseEffect_keeps (t : Trib) (index : Byte) (s : State) :
    ActKeeps (.release t index) s (releaseEffect t index s).state := by
  unfold releaseEffect
  repeat' split
  all_goals exact .of_shared rfl rfl

theorem joinEffect_keeps (i : Instr) (t : Trib) (id : StreamId) (p m : Nat) (s : State) :
    ActKeeps i s (joinEffect t id p m s).state := by
  unfold joinEffect
  repeat' split
  all_goals exact .of_shared rfl rfl

theorem leaveEffect_keeps (i : Instr) (t : Trib) (id : StreamId) (s : State) :
    ActKeeps i s (leaveEffect t id s).state := by
  unfold leaveEffect
  repeat' split
  all_goals exact .of_shared rfl rfl

theorem enableEffect_keeps (i : Instr) (line : Byte) (s : State) : ActKeeps i s (enableEffect line s).state := by
  unfold enableEffect
  repeat' split
  all_goals exact .of_shared rfl rfl

theorem disableEffect_keeps (i : Instr) (line : Byte) (s : State) : ActKeeps i s (disableEffect line s).state := by
  unfold disableEffect
  repeat' split
  all_goals exact .of_shared (by simp) (by simp)

theorem restartEffect_keeps (i : Instr) (line : Byte) (s : State) : ActKeeps i s (restartEffect line s).state := by
  unfold restartEffect
  repeat' split
  all_goals exact .of_shared rfl rfl

theorem setupEffect_keeps (t : Trib) (f : SetupFields) (s : State) :
    ActKeeps (.setup t f) s (setupEffect t f s).state := by
  unfold setupEffect
  split
  · refine ⟨?_, fun h => absurd rfl (h t f), fun _ => ?_, ?_⟩
    · rw [Answer.done_state, State.applySetup_eq]
      rfl
    · rw [Answer.done_state, State.applySetup_eq]
    · rw [Answer.done_state, State.applySetup_eq]
  · exact .of_shared rfl rfl

theorem mirrorEffect_keeps (t : Trib) (f : MirrorFields) (s : State) :
    ActKeeps (.mirror t f) s (mirrorEffect t f s).state := by
  unfold mirrorEffect
  repeat' split
  · exact .of_shared rfl rfl
  · exact .of_shared rfl rfl
  · exact .of_shared (State.applyMirror_shared t f s) (State.applyMirror_ring t f s)

theorem actOf_keeps (i : Instr) (s : State) : ActKeeps i s (actOf i s).state := by
  cases i
  case claim t index cls => exact claimEffect_keeps t index cls s
  case release t index => exact releaseEffect_keeps t index s
  case join t bay index p m => exact joinEffect_keeps _ t _ _ _ s
  case leave t bay index => exact leaveEffect_keeps _ t _ s
  case lineEnable t line => exact enableEffect_keeps _ line s
  case lineDisable t line => exact disableEffect_keeps _ line s
  case lineRestart t line => exact restartEffect_keeps _ line s
  case setup t f => exact setupEffect_keeps t f s
  case mirror t f => exact mirrorEffect_keeps t f s
  case readStream t bay index =>
    show ActKeeps _ s (readStreamEffect ⟨bay, index⟩ s).state
    rw [readStreamEffect_state]
    exact .of_shared rfl rfl
  case readLine t line =>
    show ActKeeps _ s (readLineEffect line s).state
    rw [readLineEffect_state]
    exact .of_shared rfl rfl
  case readRing t => exact ⟨rfl, fun _ => rfl, fun h => absurd rfl (h t), rfl⟩
  all_goals exact .of_shared rfl rfl

/-- A request changes the rotation pointer besides what its acting block does (R165). -/
theorem State.serve_owned {i : Instr} {t : Trib} {code : Byte} {fields : List Byte}
    (hi : requestOf i = some (t, code, fields)) (s : State) : Owned i s (s.serve t i (actOf i)) := by
  rcases hs : s.serving t i with _ | r
  · rw [State.serve_of_none hs]
    exact .refl i s
  · rw [State.serve_of_serving hs]
    obtain ⟨hshared, hprofile, hfree, hring⟩ := actOf_keeps i (s.changePort t Port.takeRequest)
    exact ⟨congrArg Shared.ownBay hshared, hprofile, fun h => by simp [h] at hi,
      fun _ => congrArg Shared.timeBase hshared, fun _ => congrArg Shared.inPins hshared, hfree, fun _ _ _ => hring⟩

/-! ### Events -/

theorem execLinkUp_owned (t : Trib) {s u : State} (h : execLinkUp t s = .next u) : Owned (.linkUp t) s u := by
  unfold execLinkUp at h
  split at h <;> cases h <;> exact .of_shared rfl fun _ _ _ => rfl

theorem execLinkDown_owned (t : Trib) {s u : State} (h : execLinkDown t s = .next u) : Owned (.linkDown t) s u := by
  unfold execLinkDown at h
  repeat' split at h
  all_goals cases h; exact .of_shared rfl fun _ _ _ => rfl

theorem State.stamp_shared (t : Trib) (index : Byte) (payload : List Byte) (e : Entry) (seq : SeqNo) (s : State) :
    (s.stamp t index payload e seq).shared = s.shared := by
  simp only [State.stamp, State.offerBoth, State.offerDataTo_shared, State.offerLine_shared, State.changePort_shared]
  rfl

theorem State.stamp_ring (t : Trib) (index : Byte) (payload : List Byte) (e : Entry) (seq : SeqNo) (s : State) :
    (s.stamp t index payload e seq).ring = s.ring := by
  simp [State.stamp]

theorem State.intake_owned (i : Instr) (t : Trib) (index : Byte) (payload : List Byte) (s : State) :
    Owned i s ((s.changePort t Port.countGood).intake t index payload) := by
  unfold State.intake
  repeat' split
  case h_2.isTrue => exact .of_shared (State.stamp_shared ..) fun _ _ _ => State.stamp_ring ..
  all_goals exact .of_shared rfl fun _ _ _ => rfl

theorem execTributaryFrameReceived_owned (t : Trib) (bytes : List Byte) {s u : State}
    (h : execTributaryFrameReceived t bytes s = .next u) : Owned (.tributaryFrameReceived t bytes) s u := by
  unfold execTributaryFrameReceived at h
  repeat' split at h
  all_goals cases h
  · exact .refl _ s
  · exact .of_shared rfl fun _ _ _ => rfl
  · exact State.intake_owned ..
  · exact .of_shared rfl fun _ _ _ => rfl

theorem execTributaryEndOfTransmission_owned (t : Trib) (of : Ended) {s u : State}
    (h : execTributaryEndOfTransmission t of s = .next u) : Owned (.tributaryEndOfTransmission t of) s u := by
  unfold execTributaryEndOfTransmission at h
  split at h <;> cases h <;> exact .of_shared rfl fun _ _ _ => rfl

theorem execClaimHoldExpiry_owned (t : Trib) {s u : State} (h : execClaimHoldExpiry t s = .next u) :
    Owned (.claimHoldExpiry t) s u := by
  unfold execClaimHoldExpiry at h
  split at h <;> cases h
  next due _ => exact .of_timer (due := due) rfl (.of_shared (by simp) fun _ _ _ => by simp)
  next => exact .refl _ s

theorem execLockAcquired_owned (l : Line) {s u : State} (h : execLockAcquired l s = .next u) :
    Owned (.lockAcquired l) s u := by
  unfold execLockAcquired at h
  split at h <;> cases h <;> exact .of_shared rfl fun _ _ _ => rfl

theorem execLockLost_owned (l : Line) {s u : State} (h : execLockLost l s = .next u) : Owned (.lockLost l) s u := by
  unfold execLockLost at h
  split at h <;> cases h
  next => exact .of_shared (by simp) fun _ _ _ => by simp
  all_goals exact .refl _ s

theorem execDwellExpiry_owned (l : Line) {s u : State} (h : execDwellExpiry l s = .next u) :
    Owned (.dwellExpiry l) s u := by
  unfold execDwellExpiry at h
  split at h <;> cases h
  next due _ _ => exact .of_timer (due := due) rfl (.of_shared rfl fun _ _ _ => rfl)
  next => exact .refl _ s

theorem execQualityPeriodExpiry_owned (l : Line) {s u : State} (h : execQualityPeriodExpiry l s = .next u) :
    Owned (.qualityPeriodExpiry l) s u := by
  unfold execQualityPeriodExpiry at h
  split at h <;> cases h
  next due _ _ => exact .of_timer (due := due) rfl (.of_shared rfl fun _ _ _ => rfl)
  next => exact .refl _ s

theorem execLineFrameReceived_owned (l : Line) (bytes : List Byte) {s u : State}
    (h : execLineFrameReceived l bytes s = .next u) : Owned (.lineFrameReceived l bytes) s u := by
  refine .of_shared ?_ fun h => absurd rfl (h l bytes)
  unfold execLineFrameReceived at h
  repeat' split at h
  all_goals cases h; simp

theorem execLineEndOfTransmission_owned (l : Line) (of : Ended) {s u : State}
    (h : execLineEndOfTransmission l of s = .next u) : Owned (.lineEndOfTransmission l of) s u := by
  unfold execLineEndOfTransmission at h
  split at h <;> cases h <;> exact .of_shared rfl fun _ _ _ => rfl

theorem execBeaconTimerExpiry_owned {s u : State} (h : execBeaconTimerExpiry s = .next u) :
    Owned .beaconTimerExpiry s u := by
  unfold execBeaconTimerExpiry at h
  split at h <;> obtain rfl := Host.Outcome.next.inj h
  next due _ =>
    refine .of_timer (due := due) rfl (.of_shared ?_ fun _ _ h => absurd rfl h)
    rw [State.emitBeacon_shared, State.changeRing_shared]
  next => exact .refl _ s

theorem execRosterExpiry_owned (bay : Byte) (l : Line) {s u : State} (h : execRosterExpiry bay l s = .next u) :
    Owned (.rosterExpiry bay l) s u := by
  unfold execRosterExpiry at h
  split at h <;> cases h
  next part _ => exact .of_timer (due := part.expiry) rfl (.of_shared rfl fun _ h => absurd rfl (h bay l))
  next => exact .refl _ s

theorem execSilenceTimerExpiry_owned (bay index : Byte) (l : Line) {s u : State}
    (h : execSilenceTimerExpiry bay index l s = .next u) : Owned (.silenceTimerExpiry bay index l) s u := by
  unfold execSilenceTimerExpiry at h
  repeat' split at h
  all_goals cases h
  next due _ => exact .of_timer (due := due) rfl (.of_shared (by simp) fun _ _ _ => by simp)
  all_goals exact .refl _ s

theorem execContactSample_owned (levels : Byte) {s u : State} (h : execContactSample levels s = .next u) :
    Owned (.contactSample levels) s u := by
  cases h
  have hshared := State.contactSample_shared levels (s.advanceTo s.mirror.sampleDue)
  exact .of_timer (due := s.mirror.sampleDue) rfl
    { ownBay := congrArg Shared.ownBay hshared
      profile := fun _ => congrArg Shared.profile hshared
      pointer := fun _ => congrArg Shared.pointer hshared
      timeBase := fun _ => congrArg Shared.timeBase hshared
      inPins := fun h => absurd rfl (h levels)
      freeCount := fun _ => congrArg Shared.freeCount hshared
      ring := fun _ _ _ => State.contactSample_ring .. }

theorem execRefreshTimerExpiry_owned {s u : State} (h : execRefreshTimerExpiry s = .next u) :
    Owned .refreshTimerExpiry s u := by
  unfold execRefreshTimerExpiry at h
  repeat' split at h
  all_goals cases h
  next due _ _ => exact .of_timer (due := due) rfl (.of_shared (by simp) fun _ _ _ => by simp)
  all_goals exact .refl _ s

/-- Every command but a reset changes of the common settings only those that it may. -/
theorem exec_owned {i : Instr} {s u : State} (h : exec i s = .next u)
    (hreset : ∀ bay lapsel inputs, i ≠ .powerOnReset bay lapsel inputs) : Owned i s u := by
  rcases hi : requestOf i with _ | ⟨t, code, fields⟩
  · cases i
    case powerOnReset bay lapsel inputs => exact absurd rfl (hreset bay lapsel inputs)
    case linkUp t => exact execLinkUp_owned t h
    case linkDown t => exact execLinkDown_owned t h
    case tributaryFrameReceived t bytes => exact execTributaryFrameReceived_owned t bytes h
    case tributaryEndOfTransmission t of => exact execTributaryEndOfTransmission_owned t of h
    case claimHoldExpiry t => exact execClaimHoldExpiry_owned t h
    case lockAcquired l => exact execLockAcquired_owned l h
    case lockLost l => exact execLockLost_owned l h
    case dwellExpiry l => exact execDwellExpiry_owned l h
    case qualityPeriodExpiry l => exact execQualityPeriodExpiry_owned l h
    case lineFrameReceived l bytes => exact execLineFrameReceived_owned l bytes h
    case lineEndOfTransmission l of => exact execLineEndOfTransmission_owned l of h
    case beaconTimerExpiry => exact execBeaconTimerExpiry_owned h
    case rosterExpiry bay l => exact execRosterExpiry_owned bay l h
    case silenceTimerExpiry bay index l => exact execSilenceTimerExpiry_owned bay index l h
    case contactSample levels => exact execContactSample_owned levels h
    case refreshTimerExpiry => exact execRefreshTimerExpiry_owned h
    all_goals cases hi
  · rw [exec_request hi] at h
    cases h
    exact State.serve_owned hi s

/-- Settles O4, setting by setting. -/
theorem settingsOwners : Obligations.SettingsOwners := fun _ _ _ h hreset =>
  let howned := exec_owned h hreset
  ⟨howned.ownBay, howned.profile, howned.pointer, howned.timeBase, howned.inPins, howned.freeCount, howned.ring⟩

end Sys2Proof.Machine
end

section
namespace Sys2Proof.Machine

/-! ### Received ring frames (R8, R11) -/

/-- The check fails when the last four bytes are not the check of the rest. -/
theorem checkHolds_eq_false_iff (bytes : List Byte) :
    checkHolds bytes = false ↔
      checkBytes (bytes.take (bytes.length - 4)) ≠ bytes.drop (bytes.length - 4) := by
  simp [checkHolds, withoutCheck]

/-- A byte string with at least `n` bytes besides its check starts with those of the rest. -/
theorem getD_withoutCheck {bytes : List Byte} (h : checkHolds bytes = true) {i : Nat}
    (hi : i < (withoutCheck bytes).length) : bytes.getD i 0 = (withoutCheck bytes).getD i 0 := by
  conv_lhs => rw [eq_append_of_checkHolds h]
  rw [List.getD_append _ _ _ _ hi]

theorem withoutCheck_length (bytes : List Byte) : (withoutCheck bytes).length = bytes.length - 4 := by
  simp [withoutCheck]

theorem frameKindOfCode_eq_none_iff (c : Byte) :
    frameKindOfCode c = none ↔ c.toNat ∉ [0x71, 0x72, 0x73, 0x7B] := by
  unfold frameKindOfCode
  split <;> simp_all

theorem frameKindOfCode_eq_beacon_iff (c : Byte) : frameKindOfCode c = some .beacon ↔ c.toNat = 0x7B := by
  unfold frameKindOfCode
  split <;> simp_all

/-- Row 3 of R11 on the fields that the header gives. -/
structure HeaderFits (kind : FrameKind) (index lap : Byte) (length : Nat) (payload : List Byte) : Prop where
  indexFits : index.toNat ≤ 63
  lapFits : lap.toNat ≤ 63
  bounded : length ≤ 1024
  exact : length = payload.length
  beacon : kind = .beacon → length = 3 ∧ index = 0

theorem readRingFrame_of_fits {bytes payload : List Byte} {ty bay index lap s1 s0 l1 l0 : Byte} {kind : FrameKind}
    (h : withoutCheck bytes = ty :: bay :: index :: lap :: s1 :: s0 :: l1 :: l0 :: payload)
    (hlength : bytes.length = payload.length + 12) (hkind : frameKindOfCode ty = some kind)
    (hfits : HeaderFits kind index lap (wordOf l1 l0).toNat payload) :
    readRingFrame bytes = some ⟨kind, bay, index, lap, wordOf s1 s0, payload⟩ := by
  unfold readRingFrame
  simp only [h, hkind]
  rw [if_pos ⟨hfits.indexFits, hfits.lapFits, hfits.bounded, by rw [hlength, hfits.exact], hfits.beacon⟩]

theorem readRingFrame_of_not_fits {bytes payload : List Byte} {ty bay index lap s1 s0 l1 l0 : Byte}
    (h : withoutCheck bytes = ty :: bay :: index :: lap :: s1 :: s0 :: l1 :: l0 :: payload)
    (hlength : bytes.length = payload.length + 12)
    (hfits : ∀ kind, frameKindOfCode ty = some kind → ¬ HeaderFits kind index lap (wordOf l1 l0).toNat payload) :
    readRingFrame bytes = none := by
  unfold readRingFrame
  rcases hkind : frameKindOfCode ty with _ | kind
  · simp only [h, hkind]
  · simp only [h, hkind]
    rw [if_neg]
    rintro ⟨hindex, hlap, hbounded, hlen, hbeacon⟩
    exact hfits kind hkind ⟨hindex, hlap, hbounded, by omega, hbeacon⟩

/-- A byte string that passes the check and is neither too long nor too short is classified by its header. -/
theorem classifyLine_of_check {bytes : List Byte} (hlong : bytes.length ≤ 1036) (hshort : 12 ≤ bytes.length)
    (hcheck : checkHolds bytes = true) :
    classifyLine bytes = (readRingFrame bytes).elim .malformed .good := by
  unfold classifyLine
  rw [if_neg (by omega), if_neg (by simp [hcheck]; omega)]
  cases readRingFrame bytes <;> rfl

/-- A string of at least eight bytes is a header and a payload. -/
theorem exists_header {core : List Byte} (h : 8 ≤ core.length) :
    ∃ ty bay index lap s1 s0 l1 l0 : Byte, ∃ payload : List Byte,
      core = ty :: bay :: index :: lap :: s1 :: s0 :: l1 :: l0 :: payload := by
  rcases core with _ | ⟨ty, _ | ⟨bay, _ | ⟨index, _ | ⟨lap, _ | ⟨s1, _ | ⟨s0, _ | ⟨l1, _ | ⟨l0, payload⟩⟩⟩⟩⟩⟩⟩⟩
  case cons.cons.cons.cons.cons.cons.cons.cons => exact ⟨ty, bay, index, lap, s1, s0, l1, l0, payload, rfl⟩
  all_goals simp at h

/-- A frame whose header fits is written as the bytes it was read from. -/
theorem RingFrame.bytes_of_read {bytes payload : List Byte} {ty bay index lap s1 s0 l1 l0 : Byte} {kind : FrameKind}
    (hcheck : checkHolds bytes = true)
    (h : withoutCheck bytes = ty :: bay :: index :: lap :: s1 :: s0 :: l1 :: l0 :: payload)
    (hkind : frameKindOfCode ty = some kind) (hlength : (wordOf l1 l0).toNat = payload.length) :
    (⟨kind, bay, index, lap, wordOf s1 s0, payload⟩ : RingFrame).bytes = bytes := by
  have hopening : (⟨kind, bay, index, lap, wordOf s1 s0, payload⟩ : RingFrame).header ++ payload
      = withoutCheck bytes := by
    rw [RingFrame.header, code_of_frameKindOfCode hkind, beBytes_wordOf, ← hlength, beBytes_wordOf, h]
    rfl
  rw [RingFrame.bytes, hopening]
  exact (eq_append_of_checkHolds hcheck).symm

/-- Settles O7: the frame's own bytes pass the check, and its header fits. -/
theorem ringFrameRoundTrip : Obligations.RingFrameRoundTrip := by
  intro f hindex hlap hpayload hbeacon
  have hcheck : checkHolds f.bytes = true := checkHolds_append _
  have hlength : f.bytes.length = f.payload.length + 12 := by rw [RingFrame.bytes_length, Nat.add_comm]
  have hcore : withoutCheck f.bytes
      = f.kind.code :: f.origin :: f.index :: f.lap :: BitVec.ofNat 8 (f.seq.toNat / 256) :: BitVec.ofNat 8 f.seq.toNat
        :: BitVec.ofNat 8 (f.payload.length / 256) :: BitVec.ofNat 8 f.payload.length :: f.payload := by
    rw [RingFrame.bytes, withoutCheck_append, RingFrame.header, beBytes_two, beBytes_two]
    rfl
  have hword := wordOf_beBytes f.payload.length (by omega)
  rw [classifyLine_of_check (by omega) (by omega) hcheck,
    readRingFrame_of_fits hcore hlength (frameKindOfCode_code f.kind)
      ⟨hindex, hlap, by rw [hword]; exact hpayload, hword, by rw [hword]; exact hbeacon⟩, wordOf_bytes]
  rfl

/-- Settles O8, class by class. -/
theorem lineClasses : Obligations.LineClasses := by
  intro bytes
  refine ⟨fun h => by simp [classifyLine, h], fun hlong h => ?_, fun hlong hshort hcheck => ?_⟩
  · rw [← checkHolds_eq_false_iff] at h
    rw [classifyLine, if_neg (by omega), if_pos h]
  · have hholds : checkHolds bytes = true := by simpa [checkHolds, withoutCheck] using hcheck
    have hcorelength := withoutCheck_length bytes
    have hget : ∀ i < 8, bytes.getD i 0 = (withoutCheck bytes).getD i 0 := fun i hi =>
      getD_withoutCheck hholds (by omega)
    obtain ⟨ty, bay, index, lap, s1, s0, l1, l0, payload, hcore⟩ :=
      exists_header (core := withoutCheck bytes) (by omega)
    have hlength : bytes.length = payload.length + 12 := by
      rw [hcore] at hcorelength
      simp only [List.length_cons] at hcorelength
      omega
    simp only [hget 0 (by decide), hget 2 (by decide), hget 3 (by decide), hget 6 (by decide), hget 7 (by decide),
      hcore, List.getD_cons_zero, List.getD_cons_succ, ← wordOf_toNat]
    rw [classifyLine_of_check hlong hshort hholds]
    split
    case isTrue hbad =>
      rw [readRingFrame_of_not_fits hcore hlength, Option.elim_none]
      rintro kind hkind ⟨hindex, hlap, hbounded, hlen, hbeacon⟩
      rcases hbad with h | h | h | h | h | ⟨hty, h⟩
      · rw [(frameKindOfCode_eq_none_iff ty).mpr h] at hkind
        cases hkind
      · omega
      · omega
      · omega
      · omega
      · rw [(frameKindOfCode_eq_beacon_iff ty).mpr hty] at hkind
        cases hkind
        obtain ⟨hthree, rfl⟩ := hbeacon rfl
        exact h.elim (fun h => h hthree) fun h => h rfl
    case isFalse hgood =>
      simp only [not_or, not_not, not_lt, not_and, ne_eq] at hgood
      obtain ⟨hty, hindex, hlap, hbounded, hlen, hbeacon⟩ := hgood
      obtain ⟨kind, hkind⟩ : ∃ kind, frameKindOfCode ty = some kind := by
        rw [← Option.isSome_iff_exists, Option.isSome_iff_ne_none, ne_eq, frameKindOfCode_eq_none_iff]
        exact not_not_intro hty
      have hfits : HeaderFits kind index lap (wordOf l1 l0).toNat payload := by
        refine ⟨hindex, hlap, hbounded, by omega, ?_⟩
        rintro rfl
        obtain ⟨hthree, hzero⟩ := hbeacon ((frameKindOfCode_eq_beacon_iff ty).mp hkind)
        exact ⟨hthree, BitVec.eq_of_toNat_eq hzero⟩
      refine ⟨⟨kind, bay, index, lap, wordOf s1 s0, payload⟩, ?_,
        RingFrame.bytes_of_read hholds hcore hkind hfits.exact⟩
      rw [readRingFrame_of_fits hcore hlength hkind hfits]
      rfl

end Sys2Proof.Machine
end

section
namespace Sys2Proof.Machine

/-! ### Received tributary frames (R12, R13, R15) -/

/-- A byte string of at least seven bytes that passes the check, taken apart. -/
structure TribRead (bytes : List Byte) (ty l1 l0 : Byte) (body : List Byte) : Prop where
  check : checkHolds bytes = true
  core : withoutCheck bytes = ty :: l1 :: l0 :: body
  length : bytes.length = body.length + 7

/-- Row 3 of R15 on the body length. -/
def BodyLengthFits (bytes : List Byte) (l1 l0 : Byte) : Prop :=
  (wordOf l1 l0).toNat + 7 = bytes.length ∧ (wordOf l1 l0).toNat ≤ 1025

section
variable {bytes : List Byte} {ty l1 l0 : Byte} {body : List Byte}

theorem TribRead.passes (h : TribRead bytes ty l1 l0 body) : ¬ (bytes.length < 7 ∨ checkHolds bytes = false) := by
  have := h.length
  simp [h.check]
  omega

theorem TribRead.malformed_of_length (h : TribRead bytes ty l1 l0 body) (hlen : ¬ BodyLengthFits bytes l1 l0) :
    classifyTrib bytes = .malformed := by
  unfold classifyTrib
  rw [if_neg h.passes, h.core]
  dsimp only
  rw [if_pos]
  by_contra hno
  exact hlen ⟨by omega, by omega⟩

theorem TribRead.malformed_of_type (h : TribRead bytes ty l1 l0 body) (hpublish : ty.toNat ≠ 0x11)
    (hrequest : ty.toNat ≠ 0x12) : classifyTrib bytes = .malformed := by
  unfold classifyTrib
  rw [if_neg h.passes, h.core]
  dsimp only
  split
  · rfl
  · split <;> simp_all

theorem TribRead.malformed_of_emptyPublish (h : TribRead bytes ty l1 l0 []) (hty : ty.toNat = 0x11) :
    classifyTrib bytes = .malformed := by
  unfold classifyTrib
  rw [if_neg h.passes, h.core]
  simp [hty]

theorem TribRead.malformed_of_shortRequest (h : TribRead bytes ty l1 l0 body) (hty : ty.toNat = 0x12)
    (hbody : body.length < 2) : classifyTrib bytes = .malformed := by
  unfold classifyTrib
  rw [if_neg h.passes, h.core]
  rcases body with _ | ⟨code, _ | ⟨tag, fields⟩⟩
  · simp [hty]
  · simp [hty]
  · simp at hbody

theorem TribRead.malformed_of_index {index : Byte} {payload : List Byte}
    (h : TribRead bytes ty l1 l0 (index :: payload)) (hty : ty.toNat = 0x11) (hindex : 63 < index.toNat) :
    classifyTrib bytes = .malformed := by
  unfold classifyTrib
  rw [if_neg h.passes, h.core]
  simp [hty, hindex]

theorem TribRead.publish {index : Byte} {payload : List Byte} (h : TribRead bytes ty l1 l0 (index :: payload))
    (hlen : BodyLengthFits bytes l1 l0) (hty : ty.toNat = 0x11) (hindex : index.toNat ≤ 63) :
    classifyTrib bytes = .publish index payload := by
  obtain ⟨hexact, hbounded⟩ := hlen
  unfold classifyTrib
  rw [if_neg h.passes, h.core]
  dsimp only
  rw [if_neg (by omega)]
  simp [hty, hindex]

theorem TribRead.request {code tag : Byte} {fields : List Byte} (h : TribRead bytes ty l1 l0 (code :: tag :: fields))
    (hlen : BodyLengthFits bytes l1 l0) (hty : ty.toNat = 0x12) :
    classifyTrib bytes = .request ⟨code, tag, fields⟩ := by
  obtain ⟨hexact, hbounded⟩ := hlen
  unfold classifyTrib
  rw [if_neg h.passes, h.core]
  dsimp only
  rw [if_neg (by omega)]
  simp [hty]

/-- The bytes read are those that the frame is written in. -/
theorem TribRead.bytes_eq (h : TribRead bytes ty l1 l0 body) (hlen : (wordOf l1 l0).toNat = body.length) :
    tribFrameBytes ty body = bytes := by
  have hopening : ty :: beBytes 2 body.length ++ body = withoutCheck bytes := by
    rw [h.core, ← hlen, beBytes_wordOf]
    rfl
  rw [tribFrameBytes, hopening]
  exact (eq_append_of_checkHolds h.check).symm

end

/-- A frame that is written passes the check and is read from its type, length and body. -/
theorem tribFrameBytes_read (ty : Byte) (body : List Byte) :
    TribRead (tribFrameBytes ty body) ty (BitVec.ofNat 8 (body.length / 256)) (BitVec.ofNat 8 body.length) body where
  check := checkHolds_append _
  core := by
    rw [tribFrameBytes, withoutCheck_append, beBytes_two]
    rfl
  length := by rw [tribFrameBytes_length, Nat.add_comm]

/-- A body within the bound is written with its length (R12). -/
theorem tribFrameBytes_fits (ty : Byte) {body : List Byte} (h : body.length ≤ 1025) :
    BodyLengthFits (tribFrameBytes ty body) (BitVec.ofNat 8 (body.length / 256)) (BitVec.ofNat 8 body.length) := by
  rw [BodyLengthFits, wordOf_beBytes _ (by omega), tribFrameBytes_length]
  omega

/-- A frame of the part's own types is malformed when it is received (R15). -/
theorem classifyTrib_sent (f : TribFrame) : classifyTrib f.bytes = .malformed := by
  cases f with
  | delivery r => exact (tribFrameBytes_read _ _).malformed_of_type (by decide) (by decide)
  | reply y => exact (tribFrameBytes_read _ _).malformed_of_type (by decide) (by decide)
  | report kinds => exact (tribFrameBytes_read _ _).malformed_of_type (by decide) (by decide)

/-- A byte string of at least seven bytes that passes the check has a type, a length and a body. -/
theorem exists_tribRead {bytes : List Byte} (hlength : 7 ≤ bytes.length) (hcheck : checkHolds bytes = true) :
    ∃ ty l1 l0 : Byte, ∃ body : List Byte, TribRead bytes ty l1 l0 body := by
  have hcorelength := withoutCheck_length bytes
  rcases hcore : withoutCheck bytes with _ | ⟨ty, _ | ⟨l1, _ | ⟨l0, body⟩⟩⟩
  case cons.cons.cons =>
    rw [hcore] at hcorelength
    simp only [List.length_cons] at hcorelength
    exact ⟨ty, l1, l0, body, hcheck, hcore, by omega⟩
  all_goals
    rw [hcore] at hcorelength
    simp only [List.length_cons, List.length_nil] at hcorelength
    omega

/-! ### The flags of a delivery record (R14) -/

theorem ShownHealth.code_lt (h : ShownHealth) : h.code.toNat < 8 := by
  rcases h with h | _
  · cases h <;> decide
  · decide

theorem Origin.code_lt (o : Origin) : o.code < 4 := by
  rcases o with _ | l | _
  · decide
  · cases l <;> decide
  · decide

theorem DeliveryRecord.flags_toNat (r : DeliveryRecord) :
    r.flags.toNat = 64 * r.origin.code + 32 * r.late.toNat + 16 * r.resync.toNat + 8 * r.gap.isSome.toNat
      + r.health.code.toNat := by
  have := r.health.code_lt
  have := r.origin.code_lt
  have := r.late.toNat_lt
  have := r.resync.toNat_lt
  have := r.gap.isSome.toNat_lt
  rw [DeliveryRecord.flags, BitVec.toNat_ofNat]
  omega

/-- A bit of a byte whose number leaves a flag at that place. -/
theorem getLsbD_of_div {b : Byte} {n : Nat} {flag : Bool} (h : b.toNat / 2 ^ n % 2 = flag.toNat) :
    b.getLsbD n = flag := by
  rw [BitVec.getLsbD, Nat.testBit_eq_decide_div_mod_eq, h]
  cases flag <;> rfl

/-- A frame of type PUBLISH is read by its body (R13, R15). -/
theorem TribRead.read_publish {bytes : List Byte} {l1 l0 : Byte} {body : List Byte}
    (h : TribRead bytes 0x11 l1 l0 body) (hfits : BodyLengthFits bytes l1 l0)
    (hlen : (wordOf l1 l0).toNat = body.length) :
    if body.length = 0 ∨ 63 < (body.getD 0 0).toNat then classifyTrib bytes = .malformed
    else ∃ (index : Byte) (payload : List Byte),
      classifyTrib bytes = .publish index payload ∧ publishBytes index payload = bytes := by
  rcases body with _ | ⟨index, payload⟩
  · rw [if_pos (.inl rfl)]
    exact h.malformed_of_emptyPublish rfl
  · by_cases hindex : 63 < index.toNat
    · rw [if_pos (.inr hindex)]
      exact h.malformed_of_index rfl hindex
    · rw [if_neg fun hno => hno.elim (fun hno => by cases hno) hindex]
      exact ⟨index, payload, h.publish hfits rfl (by omega), h.bytes_eq hlen⟩

/-- A frame of type REQUEST is read by its body (R13, R15). -/
theorem TribRead.read_request {bytes : List Byte} {l1 l0 : Byte} {body : List Byte}
    (h : TribRead bytes 0x12 l1 l0 body) (hfits : BodyLengthFits bytes l1 l0)
    (hlen : (wordOf l1 l0).toNat = body.length) :
    if body.length < 2 then classifyTrib bytes = .malformed
    else ∃ r : Request, classifyTrib bytes = .request r ∧ requestBytes r = bytes := by
  split
  case isTrue hshort => exact h.malformed_of_shortRequest rfl hshort
  case isFalse hlong =>
    rcases body with _ | ⟨code, _ | ⟨tag, fields⟩⟩
    · exact absurd (by simp) hlong
    · exact absurd (by simp) hlong
    · exact ⟨⟨code, tag, fields⟩, h.request hfits rfl, h.bytes_eq hlen⟩

/-- A byte string that passes the check is read by the tests of R15. -/
theorem classifyTrib_of_check {bytes : List Byte} (hlength : 7 ≤ bytes.length) (hcheck : checkHolds bytes = true) :
    let type := (bytes.getD 0 0).toNat
    let length := 256 * (bytes.getD 1 0).toNat + (bytes.getD 2 0).toNat
    if length + 7 ≠ bytes.length ∨ 1025 < length ∨ (type ≠ 0x11 ∧ type ≠ 0x12)
        ∨ (type = 0x11 ∧ (length = 0 ∨ 63 < (bytes.getD 3 0).toNat)) ∨ (type = 0x12 ∧ length < 2) then
      classifyTrib bytes = .malformed
    else if type = 0x11 then ∃ (index : Byte) (payload : List Byte),
      classifyTrib bytes = .publish index payload ∧ publishBytes index payload = bytes
    else ∃ r : Request, classifyTrib bytes = .request r ∧ requestBytes r = bytes := by
  obtain ⟨ty, l1, l0, body, h⟩ := exists_tribRead hlength hcheck
  have hbody := h.length
  have hget : ∀ i < body.length + 3, bytes.getD i 0 = (ty :: l1 :: l0 :: body).getD i 0 := fun i hi => by
    have hcorelength := withoutCheck_length bytes
    rw [getD_withoutCheck hcheck (by omega), h.core]
  simp only [hget 0 (by omega), hget 1 (by omega), hget 2 (by omega), List.getD_cons_zero, List.getD_cons_succ,
    ← wordOf_toNat]
  by_cases hfits : BodyLengthFits bytes l1 l0
  case neg =>
    have hbad : (wordOf l1 l0).toNat + 7 ≠ bytes.length ∨ 1025 < (wordOf l1 l0).toNat := by
      by_contra hno
      exact hfits ⟨by omega, by omega⟩
    rw [if_pos (by tauto)]
    exact h.malformed_of_length hfits
  obtain ⟨hexact, hbounded⟩ := id hfits
  have hlen : (wordOf l1 l0).toNat = body.length := by omega
  have hfirst : 0 < body.length → bytes.getD 3 0 = body.getD 0 0 := fun hpos => by
    rw [hget 3 (by omega)]
    rfl
  rw [hlen] at hexact hbounded ⊢
  by_cases hpublish : ty.toNat = 0x11
  · obtain rfl : ty = 0x11 := BitVec.eq_of_toNat_eq hpublish
    refine (if_congr ?_ rfl (if_pos hpublish)).mpr (h.read_publish hfits hlen)
    rcases Nat.eq_zero_or_pos body.length with hzero | hpos
    · simp [hzero]
    · rw [hfirst hpos]
      simp [hexact, hbounded]
  by_cases hrequest : ty.toNat = 0x12
  · obtain rfl : ty = 0x12 := BitVec.eq_of_toNat_eq hrequest
    refine (if_congr ?_ rfl (if_neg hpublish)).mpr (h.read_request hfits hlen)
    simp [hexact, hbounded]
  · rw [if_pos (.inr (.inr (.inl ⟨hpublish, hrequest⟩)))]
    exact h.malformed_of_type hpublish hrequest

/-- A frame as the statements write it (R12). -/
theorem tribFrameBytes_eq (ty : Byte) (body : List Byte) :
    tribFrameBytes ty body = ty :: twoBytes (BitVec.ofNat 16 body.length) ++ body
      ++ checkBytes (ty :: twoBytes (BitVec.ofNat 16 body.length) ++ body) := by
  rw [tribFrameBytes, beBytes_eq_twoBytes]

/-- Settles O9: what is received clause by clause, then what is sent. -/
theorem tributaryFrameRoundTrip : Obligations.TributaryFrameRoundTrip := by
  refine ⟨fun index payload hindex hpayload => ?_, fun r hfields => ?_, fun index payload hindex => ?_,
    classifyTrib_sent, fun bytes => ⟨fun h => ?_, fun hlength hcheck => ?_⟩, fun r => ⟨?_, ?_⟩, fun y => ?_,
    fun kinds => ?_, fun _ _ => rfl, rfl, rfl, rfl, rfl, rfl⟩
  · exact (tribFrameBytes_read _ _).publish (tribFrameBytes_fits _ (by simp; omega)) rfl hindex
  · exact (tribFrameBytes_read _ _).request (tribFrameBytes_fits _ (by simp; omega)) rfl
  · exact (tribFrameBytes_read _ _).malformed_of_index rfl hindex
  · rw [← checkHolds_eq_false_iff] at h
    rw [classifyTrib, if_pos h]
  · exact classifyTrib_of_check hlength (by simpa [checkHolds, withoutCheck] using hcheck)
  · obtain ⟨kind, id, seq, origin, late, resync, gap, health, payload⟩ := r
    cases gap <;>
      simp only [TribFrame.bytes, tribFrameBytes_eq, DeliveryRecord.bytes, beBytes_eq_twoBytes, BitVec.ofNat_toNat,
        BitVec.setWidth_eq]
  · have hflags := r.flags_toNat
    have := r.health.code_lt
    have := r.origin.code_lt
    have := r.late.toNat_lt
    have := r.resync.toNat_lt
    have := r.gap.isSome.toNat_lt
    refine ⟨?_, getLsbD_of_div ?_, getLsbD_of_div ?_, getLsbD_of_div ?_, ?_⟩
    · rw [BitVec.toNat_ushiftRight, Nat.shiftRight_eq_div_pow]
      omega
    all_goals omega
  · simp only [TribFrame.bytes, tribFrameBytes_eq]
  · simp only [TribFrame.bytes, tribFrameBytes_eq, beBytes_eq_twoBytes, BitVec.ofNat_toNat]

end Sys2Proof.Machine
end

section
namespace Sys2Proof.Machine

/-! ### Fields in encoded order (R13) -/

/-- The encoding `enc` of the values that fit is read by `take`, and `take` reads nothing else. -/
structure FieldCodec {α : Type} (Fits : α → Prop) (enc : α → List Byte) (take : List Byte → Option (α × List Byte)) :
    Prop where
  take_enc : ∀ x, Fits x → ∀ rest, take (enc x ++ rest) = some (x, rest)
  enc_take : ∀ bs x rest, take bs = some (x, rest) → Fits x ∧ bs = enc x ++ rest

theorem byteCodec : FieldCodec (fun _ => True) (fun b : Byte => [b]) takeByte where
  take_enc _ _ _ := rfl
  enc_take bs b rest h := by
    unfold takeByte at h
    split at h <;> cases h
    exact ⟨trivial, rfl⟩

theorem wordCodec : FieldCodec (fun _ => True) (fun w : BitVec 16 => beBytes 2 w.toNat) takeWord where
  take_enc w _ rest := by
    rw [beBytes_two]
    exact congrArg (fun w => some (w, rest)) (wordOf_bytes w)
  enc_take bs w rest h := by
    unfold takeWord at h
    split at h <;> cases h
    next hi lo =>
      refine ⟨trivial, ?_⟩
      rw [show beBytes 2 (hi ++ lo : BitVec 16).toNat = [hi, lo] from beBytes_wordOf hi lo]
      rfl

theorem countedCodec :
    FieldCodec (fun l => l.length ≤ 255) (fun l : List Byte => BitVec.ofNat 8 l.length :: l) takeCounted where
  take_enc l hl rest := by
    have hn : (BitVec.ofNat 8 l.length).toNat = l.length := by rw [BitVec.toNat_ofNat]; omega
    simp [takeCounted, Nat.mod_eq_of_lt (show l.length < 256 by omega)]
  enc_take bs l rest h := by
    unfold takeCounted at h
    split at h
    next n tail =>
      split at h <;> cases h
      next hle =>
        have := n.isLt
        have hlen : (tail.take n.toNat).length = n.toNat := by rw [List.length_take]; omega
        refine ⟨by omega, ?_⟩
        rw [hlen, List.cons_append, List.take_append_drop, BitVec.ofNat_toNat, BitVec.setWidth_eq]
    next => cases h

theorem bindingCodec : FieldCodec (fun _ => True) encodeBinding takeBinding where
  take_enc b _ _ := by cases b <;> rfl
  enc_take bs b rest h := by
    unfold takeBinding at h
    split at h
    next k tail =>
      split at h <;> cases h
      next hk =>
        obtain rfl : k = 0 := BitVec.eq_of_toNat_eq hk
        exact ⟨trivial, rfl⟩
      next bay bit policy safe hk =>
        obtain rfl : k = 1 := BitVec.eq_of_toNat_eq hk
        exact ⟨trivial, rfl⟩
    next => cases h

/-- A field of an "any subset" request, with its presence bit. -/
theorem FieldCodec.takeIf_enc {α : Type} {Fits : α → Prop} {enc : α → List Byte}
    {take : List Byte → Option (α × List Byte)}
    (codec : FieldCodec Fits enc take) {x : Option α} (hx : ∀ y ∈ x, Fits y) {present : Bool}
    (hpresent : present = x.isSome) (rest : List Byte) : takeIf present take (encodeIf enc x ++ rest) = some (x, rest) := by
  subst hpresent
  cases x with
  | none => rfl
  | some y => simp [takeIf, encodeIf, codec.take_enc y (hx y rfl)]

/-- The next field of a request that is read on. -/
theorem FieldCodec.takeIf_bind {α β : Type} {Fits : α → Prop} {enc : α → List Byte}
    {take : List Byte → Option (α × List Byte)} (codec : FieldCodec Fits enc take) {x : Option α} (hx : ∀ y ∈ x, Fits y)
    {present : Bool} (hpresent : present = x.isSome) {rest : List Byte} {g : Option α × List Byte → Option β}
    {r : Option β} (h : g (x, rest) = r) : (takeIf present take (encodeIf enc x ++ rest) >>= g) = r := by
  rw [codec.takeIf_enc hx hpresent]
  exact h

theorem FieldCodec.enc_takeIf {α : Type} {Fits : α → Prop} {enc : α → List Byte}
    {take : List Byte → Option (α × List Byte)}
    (codec : FieldCodec Fits enc take) {present : Bool} {bs rest : List Byte} {x : Option α}
    (h : takeIf present take bs = some (x, rest)) :
    (∀ y ∈ x, Fits y) ∧ x.isSome = present ∧ bs = encodeIf enc x ++ rest := by
  unfold takeIf at h
  split at h
  next hpresent =>
    obtain ⟨⟨y, tail⟩, htake, hxy⟩ := Option.map_eq_some_iff.mp h
    cases hxy
    obtain ⟨hfits, hbs⟩ := codec.enc_take bs y tail htake
    exact ⟨fun z hz => by cases hz; exact hfits, hpresent.symm, hbs⟩
  next hpresent =>
    cases h
    exact ⟨fun _ h => (by cases h), by simpa using hpresent, rfl⟩

/-! ### Presence sets (R13) -/

theorem presence_cons (b : Bool) (bits : List Bool) : presence (b :: bits) = b.toNat + 2 * presence bits := rfl

theorem presence_lt (bits : List Bool) : presence bits < 2 ^ bits.length := by
  induction bits with
  | nil => simp [presence]
  | cons b bits ih =>
    have := b.toNat_lt
    rw [presence_cons, List.length_cons, pow_succ]
    omega

theorem presence_testBit (bits : List Bool) (k : Nat) : (presence bits).testBit k = bits.getD k false := by
  induction bits generalizing k with
  | nil => simp [presence]
  | cons b bits ih =>
    cases k with
    | zero =>
      rw [presence_cons, Nat.testBit_zero]
      cases b <;> simp
    | succ k =>
      rw [presence_cons, Nat.testBit_succ, List.getD_cons_succ, ← ih]
      congr 1
      have := b.toNat_lt
      omega

/-- A presence set that names no further field is made of its own bits. -/
theorem presence_getLsbD {w : BitVec 16} {n : Nat} (h : w.toNat < 2 ^ n) :
    presence ((List.range n).map w.getLsbD) = w.toNat := by
  apply Nat.eq_of_testBit_eq
  intro k
  rw [presence_testBit, List.getD_eq_getElem?_getD, List.getElem?_map]
  by_cases hk : k < n
  · simp [List.getElem?_range hk, BitVec.getLsbD]
  · rw [List.getElem?_eq_none (by simpa using hk), Nat.testBit_lt_two_pow]
    · rfl
    · exact lt_of_lt_of_le h (Nat.pow_le_pow_right (by decide) (by omega))

/-- The bits of a presence set that is written in two bytes. -/
theorem getLsbD_presence {bits : List Bool} (h : bits.length ≤ 16) (k : Nat) :
    (BitVec.ofNat 16 (presence bits)).getLsbD k = bits.getD k false := by
  have hlt : presence bits < 2 ^ 16 := lt_of_lt_of_le (presence_lt bits) (Nat.pow_le_pow_right (by decide) h)
  rw [BitVec.getLsbD, BitVec.toNat_ofNat, Nat.mod_eq_of_lt hlt, presence_testBit]

theorem takeWord_beBytes {n : Nat} (h : n < 65536) (rest : List Byte) :
    takeWord (beBytes 2 n ++ rest) = some (BitVec.ofNat 16 n, rest) := by
  have := wordCodec.take_enc (BitVec.ofNat 16 n) trivial rest
  rwa [BitVec.toNat_ofNat, Nat.mod_eq_of_lt h] at this

/-! ### SETUP and MIRROR (R167, R168) -/

theorem listFits_iff (f : SetupFields) : listFits f = true ↔ ∀ l ∈ f.serviceList, l.length ≤ 255 := by
  unfold listFits
  cases f.serviceList <;> simp

theorem decodeSetup_encodeSetup {f : SetupFields} (h : listFits f = true) : decodeSetup (encodeSetup f) = some f := by
  obtain ⟨lap, interval, hold, list, burst, floorA, floorB, dwell, period, threshold, skew⟩ := f
  have hlist := (listFits_iff _).mp h
  let bits := [lap.isSome, interval.isSome, hold.isSome, list.isSome, burst.isSome, floorA.isSome, floorB.isSome,
    dwell.isSome, period.isSome, threshold.isSome, skew.isSome]
  have hlt : presence bits < 2048 := lt_of_lt_of_eq (presence_lt bits) (by simp [bits])
  have hget : ∀ k, (BitVec.ofNat 16 (presence bits)).getLsbD k = bits.getD k false := getLsbD_presence (by simp [bits])
  have hencode : encodeSetup ⟨lap, interval, hold, list, burst, floorA, floorB, dwell, period, threshold, skew⟩ =
      beBytes 2 (presence bits) ++ (encodeIf (fun b => [b]) lap ++ (encodeIf (fun b => [b]) interval
        ++ (encodeIf (fun w => beBytes 2 w.toNat) hold ++ (encodeIf (fun l => BitVec.ofNat 8 l.length :: l) list
        ++ (encodeIf (fun b => [b]) burst ++ (encodeIf (fun b => [b]) floorA ++ (encodeIf (fun b => [b]) floorB
        ++ (encodeIf (fun b => [b]) dwell ++ (encodeIf (fun w => beBytes 2 w.toNat) period
        ++ (encodeIf (fun b => [b]) threshold ++ (encodeIf (fun w => beBytes 2 w.toNat) skew ++ []))))))))))) := by
    simp only [encodeSetup, List.append_assoc, List.append_nil, bits]
  rw [hencode, decodeSetup, takeWord_beBytes (by omega)]
  have hw : (BitVec.ofNat 16 (presence bits)).toNat < 2 ^ 11 := by rw [BitVec.toNat_ofNat]; omega
  rw [Option.bind_eq_bind, Option.bind_some]
  refine (if_pos hw).trans ?_
  have hany : ∀ {α : Type} {x : Option α}, ∀ y ∈ x, True := fun _ _ => trivial
  refine byteCodec.takeIf_bind hany (hget 0) ?_
  refine byteCodec.takeIf_bind hany (hget 1) ?_
  refine wordCodec.takeIf_bind hany (hget 2) ?_
  refine countedCodec.takeIf_bind hlist (hget 3) ?_
  refine byteCodec.takeIf_bind hany (hget 4) ?_
  refine byteCodec.takeIf_bind hany (hget 5) ?_
  refine byteCodec.takeIf_bind hany (hget 6) ?_
  refine byteCodec.takeIf_bind hany (hget 7) ?_
  refine wordCodec.takeIf_bind hany (hget 8) ?_
  refine byteCodec.takeIf_bind hany (hget 9) ?_
  refine wordCodec.takeIf_bind hany (hget 10) ?_
  exact if_pos rfl

/-- A field of a request that decodes. -/
theorem FieldCodec.of_takeIf_bind {α β : Type} {Fits : α → Prop} {enc : α → List Byte}
    {take : List Byte → Option (α × List Byte)} (codec : FieldCodec Fits enc take) {present : Bool} {bs : List Byte}
    {g : Option α × List Byte → Option β} {r : β} (h : (takeIf present take bs >>= g) = some r) :
    ∃ (x : Option α) (rest : List Byte), (∀ y ∈ x, Fits y) ∧ x.isSome = present ∧ bs = encodeIf enc x ++ rest
      ∧ g (x, rest) = some r := by
  obtain ⟨⟨x, rest⟩, htake, hg⟩ := Option.bind_eq_some_iff.mp h
  obtain ⟨hfits, hpresent, hbs⟩ := codec.enc_takeIf htake
  exact ⟨x, rest, hfits, hpresent, hbs, hg⟩

/-- A presence set that is written as it was read. -/
theorem beBytes_presence {w : BitVec 16} {bits : List Bool} (hw : w.toNat < 2 ^ bits.length)
    (hbits : bits = (List.range bits.length).map w.getLsbD) : beBytes 2 (presence bits) = beBytes 2 w.toNat := by
  rw [hbits, presence_getLsbD hw]

/-- The two bytes that a request starts with. -/
theorem of_takeWord_bind {β : Type} {bs : List Byte} {g : BitVec 16 × List Byte → Option β} {r : β}
    (h : (takeWord bs >>= g) = some r) :
    ∃ (w : BitVec 16) (rest : List Byte), bs = beBytes 2 w.toNat ++ rest ∧ g (w, rest) = some r := by
  obtain ⟨⟨w, rest⟩, htake, hg⟩ := Option.bind_eq_some_iff.mp h
  exact ⟨w, rest, (wordCodec.enc_take _ _ _ htake).2, hg⟩

theorem of_ite_none {β : Type} {c : Prop} {_ : Decidable c} {x : Option β} {r : β}
    (h : (if c then x else none) = some r) : c ∧ x = some r := by
  split at h
  · exact ⟨by assumption, h⟩
  · cases h

theorem encodeSetup_of_decodeSetup {bs : List Byte} {f : SetupFields} (h : decodeSetup bs = some f) :
    encodeSetup f = bs ∧ listFits f = true := by
  unfold decodeSetup at h
  obtain ⟨w, bs0, hbs, h⟩ := of_takeWord_bind h
  obtain ⟨hw, h⟩ := of_ite_none h
  obtain ⟨lap, bs1, -, hlap, hbs0, h⟩ := byteCodec.of_takeIf_bind h
  obtain ⟨interval, bs2, -, hinterval, hbs1, h⟩ := byteCodec.of_takeIf_bind h
  obtain ⟨hold, bs3, -, hhold, hbs2, h⟩ := wordCodec.of_takeIf_bind h
  obtain ⟨list, bs4, hfits, hlist, hbs3, h⟩ := countedCodec.of_takeIf_bind h
  obtain ⟨burst, bs5, -, hburst, hbs4, h⟩ := byteCodec.of_takeIf_bind h
  obtain ⟨floorA, bs6, -, hfloorA, hbs5, h⟩ := byteCodec.of_takeIf_bind h
  obtain ⟨floorB, bs7, -, hfloorB, hbs6, h⟩ := byteCodec.of_takeIf_bind h
  obtain ⟨dwell, bs8, -, hdwell, hbs7, h⟩ := byteCodec.of_takeIf_bind h
  obtain ⟨period, bs9, -, hperiod, hbs8, h⟩ := wordCodec.of_takeIf_bind h
  obtain ⟨threshold, bs10, -, hthreshold, hbs9, h⟩ := byteCodec.of_takeIf_bind h
  obtain ⟨skew, bs11, -, hskew, hbs10, h⟩ := wordCodec.of_takeIf_bind h
  obtain ⟨rfl, hf⟩ := of_ite_none h
  cases hf
  refine ⟨?_, (listFits_iff _).mpr hfits⟩
  simp only [encodeSetup, hlap, hinterval, hhold, hlist, hburst, hfloorA, hfloorB, hdwell, hperiod, hthreshold, hskew]
  rw [beBytes_presence hw rfl, hbs, hbs0, hbs1, hbs2, hbs3, hbs4, hbs5, hbs6, hbs7, hbs8, hbs9, hbs10]
  simp only [List.append_assoc, List.append_nil]

theorem decodeMirror_encodeMirror (f : MirrorFields) : decodeMirror (encodeMirror f) = some f := by
  obtain ⟨publish, mask, values, debounce, refresh, ⟨b0, b1, b2, b3, b4, b5, b6, b7⟩⟩ := f
  let bits := [publish.isSome, mask.isSome, values.isSome, debounce.isSome, refresh.isSome, b0.isSome, b1.isSome,
    b2.isSome, b3.isSome, b4.isSome, b5.isSome, b6.isSome, b7.isSome]
  have hlt : presence bits < 8192 := lt_of_lt_of_eq (presence_lt bits) (by simp [bits])
  have hget : ∀ k, (BitVec.ofNat 16 (presence bits)).getLsbD k = bits.getD k false := getLsbD_presence (by simp [bits])
  have hencode : encodeMirror ⟨publish, mask, values, debounce, refresh, ⟨b0, b1, b2, b3, b4, b5, b6, b7⟩⟩ =
      beBytes 2 (presence bits) ++ (encodeIf (fun b => [b]) publish ++ (encodeIf (fun b => [b]) mask
        ++ (encodeIf (fun b => [b]) values ++ (encodeIf (fun b => [b]) debounce
        ++ (encodeIf (fun w => beBytes 2 w.toNat) refresh ++ (encodeIf encodeBinding b0 ++ (encodeIf encodeBinding b1
        ++ (encodeIf encodeBinding b2 ++ (encodeIf encodeBinding b3 ++ (encodeIf encodeBinding b4
        ++ (encodeIf encodeBinding b5 ++ (encodeIf encodeBinding b6
        ++ (encodeIf encodeBinding b7 ++ []))))))))))))) := by
    simp only [encodeMirror, Oct.toList, List.flatMap_cons, List.flatMap_nil, List.append_assoc, bits]
    rfl
  rw [hencode, decodeMirror, takeWord_beBytes (by omega)]
  have hw : (BitVec.ofNat 16 (presence bits)).toNat < 2 ^ 13 := by rw [BitVec.toNat_ofNat]; omega
  rw [Option.bind_eq_bind, Option.bind_some]
  refine (if_pos hw).trans ?_
  have hany : ∀ {α : Type} {x : Option α}, ∀ y ∈ x, True := fun _ _ => trivial
  refine byteCodec.takeIf_bind hany (hget 0) ?_
  refine byteCodec.takeIf_bind hany (hget 1) ?_
  refine byteCodec.takeIf_bind hany (hget 2) ?_
  refine byteCodec.takeIf_bind hany (hget 3) ?_
  refine wordCodec.takeIf_bind hany (hget 4) ?_
  refine bindingCodec.takeIf_bind hany (hget 5) ?_
  refine bindingCodec.takeIf_bind hany (hget 6) ?_
  refine bindingCodec.takeIf_bind hany (hget 7) ?_
  refine bindingCodec.takeIf_bind hany (hget 8) ?_
  refine bindingCodec.takeIf_bind hany (hget 9) ?_
  refine bindingCodec.takeIf_bind hany (hget 10) ?_
  refine bindingCodec.takeIf_bind hany (hget 11) ?_
  refine bindingCodec.takeIf_bind hany (hget 12) ?_
  exact if_pos rfl

theorem encodeMirror_of_decodeMirror {bs : List Byte} {f : MirrorFields} (h : decodeMirror bs = some f) :
    encodeMirror f = bs := by
  unfold decodeMirror at h
  obtain ⟨w, bs0, hbs, h⟩ := of_takeWord_bind h
  obtain ⟨hw, h⟩ := of_ite_none h
  obtain ⟨publish, bs1, -, hpublish, hbs0, h⟩ := byteCodec.of_takeIf_bind h
  obtain ⟨mask, bs2, -, hmask, hbs1, h⟩ := byteCodec.of_takeIf_bind h
  obtain ⟨values, bs3, -, hvalues, hbs2, h⟩ := byteCodec.of_takeIf_bind h
  obtain ⟨debounce, bs4, -, hdebounce, hbs3, h⟩ := byteCodec.of_takeIf_bind h
  obtain ⟨refresh, bs5, -, hrefresh, hbs4, h⟩ := wordCodec.of_takeIf_bind h
  obtain ⟨b0, bs6, -, hb0, hbs5, h⟩ := bindingCodec.of_takeIf_bind h
  obtain ⟨b1, bs7, -, hb1, hbs6, h⟩ := bindingCodec.of_takeIf_bind h
  obtain ⟨b2, bs8, -, hb2, hbs7, h⟩ := bindingCodec.of_takeIf_bind h
  obtain ⟨b3, bs9, -, hb3, hbs8, h⟩ := bindingCodec.of_takeIf_bind h
  obtain ⟨b4, bs10, -, hb4, hbs9, h⟩ := bindingCodec.of_takeIf_bind h
  obtain ⟨b5, bs11, -, hb5, hbs10, h⟩ := bindingCodec.of_takeIf_bind h
  obtain ⟨b6, bs12, -, hb6, hbs11, h⟩ := bindingCodec.of_takeIf_bind h
  obtain ⟨b7, bs13, -, hb7, hbs12, h⟩ := bindingCodec.of_takeIf_bind h
  obtain ⟨rfl, hf⟩ := of_ite_none h
  cases hf
  have hbits : [publish.isSome, mask.isSome, values.isSome, debounce.isSome, refresh.isSome]
      ++ (Oct.toList ⟨b0, b1, b2, b3, b4, b5, b6, b7⟩).map Option.isSome = (List.range 13).map w.getLsbD := by
    simp only [hpublish, hmask, hvalues, hdebounce, hrefresh, Oct.toList, List.map_cons, List.map_nil, hb0, hb1, hb2,
      hb3, hb4, hb5, hb6, hb7]
    rfl
  simp only [encodeMirror]
  rw [hbits, presence_getLsbD hw, hbs, hbs0, hbs1, hbs2, hbs3, hbs4, hbs5, hbs6, hbs7, hbs8, hbs9, hbs10, hbs11, hbs12]
  simp only [Oct.toList, List.flatMap_cons, List.flatMap_nil, List.append_assoc]

end Sys2Proof.Machine
end

section
namespace Sys2Proof.Machine

/-! ### The rows of a request (R13, R166, R167, R170) -/

/-- Three bytes read as one number. -/
theorem append_three_toNat (b2 b1 b0 : Byte) :
    (b2 ++ b1 ++ b0 : BitVec 24).toNat = 65536 * b2.toNat + 256 * b1.toNat + b0.toNat := by
  have h0 := b0.isLt
  have h1 := b1.isLt
  rw [BitVec.toNat_append, BitVec.toNat_append, ← Nat.shiftLeft_add_eq_or_of_lt h1, ← Nat.shiftLeft_add_eq_or_of_lt h0,
    Nat.shiftLeft_eq, Nat.shiftLeft_eq]
  omega

/-- The three bytes of a word are those it is written in. -/
theorem beBytes_append_three (b2 b1 b0 : Byte) : beBytes 3 (b2 ++ b1 ++ b0 : BitVec 24).toNat = [b2, b1, b0] := by
  have h0 := b0.isLt
  have h1 := b1.isLt
  have h2 := b2.isLt
  rw [beBytes_three, append_three_toNat, List.cons.injEq, List.cons.injEq, List.cons.injEq]
  refine ⟨BitVec.eq_of_toNat_eq ?_, BitVec.eq_of_toNat_eq ?_, BitVec.eq_of_toNat_eq ?_, rfl⟩ <;>
    rw [BitVec.toNat_ofNat] <;> omega

/-- A 24-bit word written in three bytes is read back. -/
theorem append_three_bytes (w : BitVec 24) :
    (BitVec.ofNat 8 (w.toNat / 65536) ++ BitVec.ofNat 8 (w.toNat / 256) ++ BitVec.ofNat 8 w.toNat : BitVec 24) = w := by
  have := w.isLt
  apply BitVec.eq_of_toNat_eq
  rw [append_three_toNat, BitVec.toNat_ofNat, BitVec.toNat_ofNat, BitVec.toNat_ofNat]
  omega

theorem eq_ofNat_of_toNat {b : Byte} {n : Nat} (h : b.toNat = n) : b = BitVec.ofNat 8 n := by
  rw [← h, BitVec.ofNat_toNat, BitVec.setWidth_eq]

/-- A request that its command is written as decodes to the command. -/
theorem decodeRow_of_requestOf {i : Instr} {t : Trib} {code : Byte} {fields : List Byte} (hwell : WellFormed i = true)
    (h : requestOf i = some (t, code, fields)) :
    decodeRow t code fields = some i ∨ decodeRow t code fields = none ∧ i = .requestUnknown t code fields := by
  cases i
  case requestUnknown u code fields =>
    cases h
    simp only [WellFormed, Bool.and_eq_true, Option.isNone_iff_eq_none] at hwell
    exact .inr ⟨hwell.2, rfl⟩
  all_goals cases h
  case join bay index p m =>
    left
    rw [beBytes_three]
    exact congrArg (fun p => some (Instr.join t bay index p m)) (append_three_bytes p)
  case setup f =>
    left
    exact congrArg (Option.map (Instr.setup t)) (decodeSetup_encodeSetup hwell)
  case mirror f =>
    left
    exact congrArg (Option.map (Instr.mirror t)) (decodeMirror_encodeMirror f)
  case clear kinds =>
    left
    rw [beBytes_two]
    exact congrArg (fun w => some (Instr.clear t w)) (wordOf_bytes kinds)
  all_goals exact .inl rfl

theorem requestOf_of_decodeLine {t : Trib} {line action : Byte} {i : Instr} (h : decodeLine t line action = some i) :
    requestOf i = some (t, 6, [line, action]) ∧ WellFormed i = true := by
  unfold decodeLine at h
  split at h <;> cases h
  all_goals
    rename_i haction
    obtain rfl := eq_ofNat_of_toNat haction
    exact ⟨rfl, rfl⟩

theorem requestOf_of_decodeRead {t : Trib} {fields : List Byte} {i : Instr} (h : decodeRead t fields = some i) :
    requestOf i = some (t, 9, fields) ∧ WellFormed i = true := by
  rcases fields with _ | ⟨target, rest⟩
  · cases h
  unfold decodeRead at h
  dsimp only at h
  rcases hn : target.toNat with _ | _ | _ | _ | _ | _ | _ | n <;> rw [hn] at h
  all_goals
    obtain rfl := eq_ofNat_of_toNat hn
    rcases rest with _ | ⟨x, _ | ⟨y, _ | ⟨z, rest⟩⟩⟩ <;> cases h
  all_goals exact ⟨rfl, rfl⟩

/-- A request that decodes is the one its command is written as. -/
theorem requestOf_of_decodeRow {t : Trib} {code : Byte} {fields : List Byte} {i : Instr}
    (h : decodeRow t code fields = some i) : requestOf i = some (t, code, fields) ∧ WellFormed i = true := by
  unfold decodeRow at h
  split at h
  case h_11 => cases h
  all_goals
    rename_i hcode
    obtain rfl := eq_ofNat_of_toNat hcode
  case h_3 =>
    split at h <;> cases h
    refine ⟨?_, rfl⟩
    rw [requestOf, beBytes_append_three]
    rfl
  case h_6 =>
    split at h
    · exact requestOf_of_decodeLine h
    · cases h
  case h_7 =>
    obtain ⟨f, hf, rfl⟩ := Option.map_eq_some_iff.mp h
    obtain ⟨hencode, hfits⟩ := encodeSetup_of_decodeSetup hf
    exact ⟨by rw [requestOf, hencode]; rfl, hfits⟩
  case h_8 =>
    obtain ⟨f, hf, rfl⟩ := Option.map_eq_some_iff.mp h
    exact ⟨by rw [requestOf, encodeMirror_of_decodeMirror hf]; rfl, rfl⟩
  case h_9 => exact requestOf_of_decodeRead h
  case h_10 =>
    split at h <;> cases h
    next hi lo =>
      refine ⟨?_, rfl⟩
      rw [requestOf, show beBytes 2 (hi ++ lo : BitVec 16).toNat = [hi, lo] from beBytes_wordOf hi lo]
      rfl
  all_goals
    split at h <;> cases h
    exact ⟨rfl, rfl⟩

/-- Settles O10: the encoder and the decoder of each field undo each other. -/
theorem requestRoundTrip : Obligations.RequestRoundTrip := by
  refine ⟨fun i t code tag fields hwell h => ?_, fun t code fields i => requestOf_of_decodeRow⟩
  rw [Request.command]
  rcases decodeRow_of_requestOf hwell h with hrow | ⟨hrow, rfl⟩ <;> rw [hrow] <;> rfl

end Sys2Proof.Machine
end

section
namespace Sys2Proof.Machine

/-! ### TRIBUTARY_FRAME_RECEIVED (R88, R89, R164) -/

theorem State.changePort_changePort (t : Trib) (f g : Port → Port) (s : State) :
    (s.changePort t f).changePort t g = s.changePort t fun p => g (f p) := by
  simp [State.changePort]

section
variable {t : Trib} {bytes : List Byte} {s : State}

theorem exec_tributaryFrame_down (hlink : (s.ports.get t).link = .down) :
    exec (.tributaryFrameReceived t bytes) s = .next s := if_pos hlink

theorem exec_tributaryFrame_malformed (hlink : (s.ports.get t).link = .up) (h : classifyTrib bytes = .malformed) :
    exec (.tributaryFrameReceived t bytes) s = .next (s.changePort t Port.countMalformed) := by
  show execTributaryFrameReceived t bytes s = _
  simp [execTributaryFrameReceived, hlink, h]

theorem exec_tributaryFrame_request {r : Request} (hlink : (s.ports.get t).link = .up)
    (h : classifyTrib bytes = .request r) :
    exec (.tributaryFrameReceived t bytes) s = .next (s.changePort t fun p => p.countGood.bufferRequest r) := by
  show execTributaryFrameReceived t bytes s = _
  simp [execTributaryFrameReceived, hlink, h, State.changePort_changePort]

theorem exec_tributaryFrame_publish {index : Byte} {payload : List Byte} (hlink : (s.ports.get t).link = .up)
    (h : classifyTrib bytes = .publish index payload) :
    exec (.tributaryFrameReceived t bytes) s = .next ((s.changePort t Port.countGood).intake t index payload) := by
  show execTributaryFrameReceived t bytes s = _
  simp [execTributaryFrameReceived, hlink, h]

end

section
variable {t : Trib} {index : Byte} {payload : List Byte} {s : State}

/-- A PUBLISH for index 0, no entry or an entry without publisher is unclaimed (R89 rows 1 and 2). -/
theorem State.intake_unclaimed (h : index = 0 ∨ ∀ e ∈ s.find (s.ownId index), e.publisher = none) :
    s.intake t index payload = s.changePort t Port.unclaimed := by
  unfold State.intake
  split
  · rfl
  rename_i hindex
  split
  · rfl
  rename_i e he
  have hnone := (h.resolve_left hindex) e he
  simp only [hnone]

/-- A PUBLISH for an entry with another publisher is a clash (R89 row 3). -/
theorem State.intake_clash {e : Entry} {pub : Publisher} (hindex : index ≠ 0) (he : s.find (s.ownId index) = some e)
    (hpub : e.publisher = some pub) (hother : pub.holder ≠ .trib t) :
    s.intake t index payload = s.changePort t Port.clash := by
  simp only [State.intake, if_neg hindex, he, hpub, if_neg hother]

/-- A PUBLISH of the publisher is stamped (R89 row 4, R90). -/
theorem State.intake_stamp {e : Entry} {pub : Publisher} (hindex : index ≠ 0) (he : s.find (s.ownId index) = some e)
    (hpub : e.publisher = some pub) (hown : pub.holder = .trib t) :
    s.intake t index payload = s.stamp t index payload e pub.seq := by
  simp only [State.intake, if_neg hindex, he, hpub, if_pos hown]

end

/-- Settles O23, outcome by outcome. -/
theorem tributaryFrame : Obligations.TributaryFrame := by
  refine ⟨fun t bytes s => ⟨exec_tributaryFrame_down, fun hlink h => exec_tributaryFrame_malformed hlink h,
    fun hlink r h => ⟨fun hroom => ?_, fun hfull => ?_⟩⟩, fun t bytes index payload s h hlink => ⟨fun hno => ?_,
    fun hindex e he pub hpub hother => ?_⟩⟩
  · rw [exec_tributaryFrame_request hlink h]
    simp [State.changePort, Port.bufferRequest, Port.countGood, Config.requestBufferCapacity, hroom]
  · rw [exec_tributaryFrame_request hlink h]
    simp [State.changePort, Port.bufferRequest, Port.countGood, Config.requestBufferCapacity, not_lt.mpr hfull]
  · rw [exec_tributaryFrame_publish hlink h, State.intake_unclaimed (s := s.changePort t Port.countGood) hno,
      State.changePort_changePort]
    rfl
  · rw [exec_tributaryFrame_publish hlink h,
      State.intake_clash (s := s.changePort t Port.countGood) hindex he hpub hother, State.changePort_changePort]
    rfl

/-- An intake on the table: the sequence counter and the intakes counter of one entry advance (R90). -/
theorem TableSet.intake {table : List Entry} {id : StreamId} {e : Entry} {pub : Publisher}
    (he : findEntry id table = some e) (hpub : e.publisher = some pub) :
    TableSet table (changeEntry id (fun e => some e.intake) table) id (some { e with
      publisher := some { pub with seq := pub.seq + 1 }
      counters := { e.counters with intakes := e.counters.intakes + 1 } }) where
  entry := by
    rw [findEntry_changeEntry (f := Entry.intake) (fun _ => rfl), if_pos rfl, he]
    simp [Entry.intake, hpub]
  others y hy := by rw [findEntry_changeEntry (f := Entry.intake) (fun _ => rfl), if_neg hy]

/-- The copies of a frame of the bay's own, one for each egress (R91). -/
theorem State.offerBoth_eq (q : QueueName) (f : RingFrame) (s : State) :
    s.offerBoth q f = { s with egresses :=
      ⟨s.egresses.a.offer (s.isOpen .a) s.profile.serviceList s.profile.urgentBurst q f,
        s.egresses.b.offer (s.isOpen .b) s.profile.serviceList s.profile.urgentBurst q f⟩ } := rfl

/-- The stamp of a PUBLISH changes the table, the egresses and the ports (R90 to R92). -/
theorem State.stamp_eq (t : Trib) (index : Byte) (payload : List Byte) (e : Entry) (seq : SeqNo) (s : State) :
    s.stamp t index payload e seq = { s with
      table := changeEntry (s.ownId index) (fun e => some e.intake) s.table
      egresses := (s.offerBoth (intakeQueue e.cls t) (s.ownFrame e.cls index seq payload)).egresses
      ports := ((s.changePort t Port.countIntake).offerDataTo e.members (e.cls == .urgent)
        (fanOutRecord (s.ownId index) seq payload)).ports } := rfl

theorem intakeQueue_eq (cls : StreamClass) (t : Trib) :
    intakeQueue cls t = if cls = .urgent then QueueName.urgent else .normal (.loc t) := by cases cls <;> rfl

/-- Settles O24: the stamp's three effects, on the table, the egresses and the ports. -/
theorem publishStamped : Obligations.PublishStamped := by
  intro t bytes index payload s e pub h hlink hindex he hpub hown
  refine ⟨changeEntry (s.ownId index) (fun e => some e.intake) s.table, TableSet.intake he hpub, ?_⟩
  rw [exec_tributaryFrame_publish hlink h,
    State.intake_stamp (s := s.changePort t Port.countGood) hindex he hpub hown, State.stamp_eq, State.offerBoth_eq,
    intakeQueue_eq, State.changePort_changePort]
  rfl

end Sys2Proof.Machine
end

section
namespace Sys2Proof.Machine

/-! ### LINE_FRAME_RECEIVED (R116 to R118) -/

section
variable {l : Line} {bytes : List Byte} {s : State}

theorem exec_lineFrame_unlocked (h : (s.receivers.get l).state ≠ .locked) :
    exec (.lineFrameReceived l bytes) s
      = .next (s.countLine l fun c => { c with unlockedDiscards := c.unlockedDiscards + 1 }) :=
  if_neg fun hopen => h ((s.isOpen_iff l).mp hopen)

theorem exec_lineFrame_tooLong (hlocked : (s.receivers.get l).state = .locked) (h : classifyLine bytes = .tooLong) :
    exec (.lineFrameReceived l bytes) s = .next (s.countLine l fun c => { c with tooLong := c.tooLong + 1 }) := by
  show execLineFrameReceived l bytes s = _
  simp only [execLineFrameReceived, if_pos ((s.isOpen_iff l).mpr hlocked), h]

theorem exec_lineFrame_malformed (hlocked : (s.receivers.get l).state = .locked)
    (h : classifyLine bytes = .malformed) :
    exec (.lineFrameReceived l bytes) s = .next (s.countLine l fun c => { c with malformed := c.malformed + 1 }) := by
  show execLineFrameReceived l bytes s = _
  simp only [execLineFrameReceived, if_pos ((s.isOpen_iff l).mpr hlocked), h]

theorem exec_lineFrame_checkFailure (hlocked : (s.receivers.get l).state = .locked)
    (h : classifyLine bytes = .checkFailure) : exec (.lineFrameReceived l bytes) s = .next (s.checkFailure l) := by
  show execLineFrameReceived l bytes s = _
  simp only [execLineFrameReceived, if_pos ((s.isOpen_iff l).mpr hlocked), h]

theorem exec_lineFrame_good {f : RingFrame} (hlocked : (s.receivers.get l).state = .locked)
    (h : classifyLine bytes = .good f) :
    exec (.lineFrameReceived l bytes) s
      = .next ((s.countLine l fun c => { c with good := c.good + 1 }).takeFrame l f) := by
  show execLineFrameReceived l bytes s = _
  simp only [execLineFrameReceived, if_pos ((s.isOpen_iff l).mpr hlocked), h]

end

/-- An egress whose line departs for SEARCH, in the statements' terms (R130). -/
theorem Egress.abort_eq (burst : Nat) (e : Egress) : e.abort burst = abortedEgress burst e := by
  unfold Egress.abort abortedEgress Egress.flush
  cases e.inFlight <;> rfl

/-- A departure for SEARCH, in the statements' terms (R108, R119, R130). -/
theorem State.departForSearch_eq (l : Line) (level : Nat) (s : State) :
    s.departForSearch l level = s.departed l level (s.receivers.get l).counters := by
  unfold State.departed
  rw [← Egress.abort_eq]
  rfl

/-- Settles O41, class by class. -/
theorem lineFrameNotGood : Obligations.LineFrameNotGood := by
  refine ⟨fun l bytes s h => exec_lineFrame_unlocked h, fun l bytes s hlocked => ⟨fun h => ?_, fun h => ?_,
    fun h hbelow => ?_, fun h hrelock => ?_⟩⟩
  · exact exec_lineFrame_tooLong hlocked h
  · exact exec_lineFrame_malformed hlocked h
  · rw [exec_lineFrame_checkFailure hlocked h, State.checkFailure_of_below hbelow]
    rfl
  · rw [exec_lineFrame_checkFailure hlocked h, State.checkFailure_of_relock hrelock, State.departForSearch_eq]
    simp only [State.departed, State.countLine, State.changeReceiver, Pair.set_set, Pair.get_set_self]
    rfl

/-! ### Foreign frames (R138, R139, R149) -/

/-- What the forwarding of a foreign frame leaves: a copy on the other line, or the lap-expired counter (R138). -/
theorem State.forward_eq (x : Line) (f : RingFrame) (s : State) :
    s.forward x f = { s with
      egresses :=
        if f.lap = 0 then s.egresses
        else s.egresses.set x.other ((s.egresses.get x.other).offer (s.isOpen x.other) s.profile.serviceList
          s.profile.urgentBurst (forwardQueue f.kind) f.forwarded)
      ring := { s.ring with counters := { s.ring.counters with
        lapExpired := if f.lap = 0 then s.ring.counters.lapExpired + 1 else s.ring.counters.lapExpired } } } := by
  unfold State.forward
  split <;> rfl

theorem forwardQueue_stream (cls : StreamClass) :
    forwardQueue (.stream cls) = if cls = .urgent then QueueName.urgent else .normal .fwd := by cases cls <;> rfl

/-- The forwarding of a frame that its line has counted: the other line's egress is as open as before. -/
theorem State.forward_countLine (l : Line) (count : ReceiverCounters → ReceiverCounters) (f : RingFrame) (s : State) :
    (s.countLine l count).forward l f = { s.forward l f with receivers := (s.countLine l count).receivers } := by
  have hopen : (s.countLine l count).isOpen l.other = s.isOpen l.other := by
    simp [State.isOpen, State.countLine, State.changeReceiver]
  rw [State.forward_eq, State.forward_eq, hopen]
  rfl

/-- A stream frame of a foreign bay without an entry is forwarded and counted as passed (R138, R139). -/
theorem State.takeFrame_passed {x : Line} {f : RingFrame} {s : State} {cls : StreamClass} (hkind : f.kind = .stream cls)
    (hforeign : f.origin ≠ s.ownBay) (hno : findEntry ⟨f.origin, f.index⟩ s.table = none) :
    s.takeFrame x f = (s.forward x f).countRing fun c => { c with passed := c.passed + 1 } := by
  have hfind : (s.forward x f).find ⟨f.origin, f.index⟩ = none := by
    rw [State.forward_eq]
    exact hno
  unfold State.takeFrame
  simp only [hkind, State.takeStream, if_neg hforeign, State.offerDelivery, hfind]

/-- Settles O46: the frame is counted, forwarded and counted as passed. -/
theorem foreignFramePassed : Obligations.ForeignFramePassed := by
  rintro l bytes s ⟨kind, origin, index, lap, seq, payload⟩ cls hlocked hgood rfl hforeign hno
  rw [exec_lineFrame_good hlocked hgood]
  rw [State.takeFrame_passed rfl (by exact hforeign) (by exact hno), State.forward_countLine, State.forward_eq,
    forwardQueue_stream]
  rfl

end Sys2Proof.Machine
end

section
namespace Sys2Proof.Machine

/-! ### The roster (R149, R150) -/

theorem code_of_ringStateOfCode {c : Byte} {r : RingState} (h : ringStateOfCode c = some r) : r.code = c := by
  unfold ringStateOfCode at h
  split at h <;> cases h
  all_goals
    rename_i hc
    exact (eq_ofNat_of_toNat hc).symm

theorem ringStateOfCode_isSome_iff (c : Byte) : (ringStateOfCode c).isSome = true ↔ c.toNat ≤ 3 := by
  unfold ringStateOfCode
  split
  case h_5 h0 h1 h2 h3 =>
    exact iff_of_false (by simp) fun h => by
      interval_cases c.toNat
      exacts [h0 rfl, h1 rfl, h2 rfl, h3 rfl]
  all_goals simp_all

theorem validBay_iff (bay : Byte) : validBay bay = true ↔ bay ≠ 0 ∧ bay ≠ 255 := by
  unfold validBay
  rw [Bool.and_eq_true, bne_iff_ne, bne_iff_ne]
  rfl

/-- The check of a foreign beacon's body (R149). -/
def BeaconPasses (f : RingFrame) (budget interval state : Byte) : Prop :=
  f.origin ≠ 0 ∧ f.origin ≠ 255 ∧ f.lap.toNat ≤ budget.toNat ∧ budget.toNat ≤ 63 ∧ 1 ≤ interval.toNat
    ∧ interval.toNat ≤ 100 ∧ state.toNat ≤ 3

/-- A foreign beacon that passes the check of R149 gives the part that its body says. -/
theorem rosterPart_of_passes {f : RingFrame} {budget interval state : Byte} (now : Time)
    (h : BeaconPasses f budget interval state) :
    ∃ reported : RingState, reported.code = state ∧ rosterPart f budget interval state now
      = some ⟨budget.toNat - f.lap.toNat, now, now + BitVec.ofNat 32 (3000 * interval.toNat), reported⟩ := by
  obtain ⟨hzero, hmax, hlap, hbudget, hlow, hhigh, hstate⟩ := h
  obtain ⟨reported, hreported⟩ := Option.isSome_iff_exists.mp ((ringStateOfCode_isSome_iff state).mpr hstate)
  refine ⟨reported, code_of_ringStateOfCode hreported, ?_⟩
  have hpasses : validBay f.origin = true ∧ f.lap.toNat ≤ budget.toNat ∧ budget.toNat ≤ 63 ∧ 1 ≤ interval.toNat
      ∧ interval.toNat ≤ 100 := ⟨(validBay_iff _).mpr ⟨hzero, hmax⟩, hlap, hbudget, hlow, hhigh⟩
  simp only [rosterPart, hreported]
  rw [if_pos hpasses, millis, show 1000 * (3 * interval.toNat) = 3000 * interval.toNat by omega]

/-- A foreign beacon that fails the check of R149 gives no part. -/
theorem rosterPart_of_not_passes {f : RingFrame} {budget interval state : Byte} (now : Time)
    (h : ¬ BeaconPasses f budget interval state) : rosterPart f budget interval state now = none := by
  unfold rosterPart
  split
  · rename_i hstate
    refine if_neg ?_
    rintro ⟨hvalid, hlap, hbudget, hlow, hhigh⟩
    obtain ⟨hzero, hmax⟩ := (validBay_iff _).mp hvalid
    exact h ⟨hzero, hmax, hlap, hbudget, hlow, hhigh, (ringStateOfCode_isSome_iff state).mp (by rw [hstate]; rfl)⟩
  · rfl

theorem find?_insertRecord_of_not {p : RosterRecord → Bool} {r : RosterRecord} (h : p r = false)
    (roster : List RosterRecord) : (insertRecord r roster).find? p = roster.find? p := by
  unfold insertRecord
  induction roster with
  | nil => simp [h]
  | cons x rest ih =>
    rw [List.orderedInsert_cons]
    split
    · rw [List.find?_cons, h]
    · rw [List.find?_cons, List.find?_cons, ih]

theorem find?_insertRecord_self {p : RosterRecord → Bool} {r : RosterRecord} (h : p r = true)
    {roster : List RosterRecord} (hrest : ∀ x ∈ roster, p x = false) : (insertRecord r roster).find? p = some r := by
  unfold insertRecord
  induction roster with
  | nil => simp [h]
  | cons x rest ih =>
    rw [List.forall_mem_cons] at hrest
    rw [List.orderedInsert_cons]
    split
    · rw [List.find?_cons, h]
    · rw [List.find?_cons, hrest.1, ih hrest.2]

theorem knownBay_iff (bay : Byte) (roster : List RosterRecord) :
    (roster.any fun r => r.bay == bay) = true ↔ ∃ rec ∈ roster, rec.bay = bay := by
  simp

theorem findPart_setPart_of_known {bay : Byte} {x : Line} {part : RosterPart} {roster : List RosterRecord}
    (h : ∃ rec ∈ roster, rec.bay = bay) (b : Byte) (y : Line) :
    findPart b y (setPart bay x part roster) = if b = bay ∧ y = x then some part else findPart b y roster := by
  unfold findPart setPart
  rw [if_pos ((knownBay_iff bay roster).mpr h), List.find?_map]
  have hsame : (fun r : RosterRecord => decide (r.bay = b)) ∘
      (fun r : RosterRecord => if r.bay = bay then { r with parts := r.parts.set x (some part) } else r)
      = fun r => decide (r.bay = b) := by
    funext r
    simp only [Function.comp_apply]
    split <;> rfl
  rw [hsame]
  rcases hfind : roster.find? fun r => decide (r.bay = b) with _ | rec
  · have hne : b ≠ bay := by
      rintro rfl
      obtain ⟨rec, hrec, hb⟩ := h
      simpa [hb] using List.find?_eq_none.mp hfind rec hrec
    simp [hne, hfind]
  · have hb : rec.bay = b := by simpa using List.find?_some hfind
    simp only [hfind, Option.map_some, Option.bind_some, hb]
    by_cases hbay : b = bay
    · by_cases hline : y = x
      · simp [hbay, hline]
      · simp [hbay, hline, Pair.get_set]
    · simp [hbay]

theorem findPart_setPart_of_new {bay : Byte} {x : Line} {part : RosterPart} {roster : List RosterRecord}
    (h : ¬ ∃ rec ∈ roster, rec.bay = bay) (b : Byte) (y : Line) :
    findPart b y (setPart bay x part roster) = if b = bay ∧ y = x then some part else findPart b y roster := by
  have hno : ∀ rec ∈ roster, decide (rec.bay = bay) = false := fun rec hrec =>
    decide_eq_false fun hb => h ⟨rec, hrec, hb⟩
  unfold findPart setPart
  rw [if_neg (by rwa [knownBay_iff])]
  by_cases hbay : b = bay
  · subst hbay
    have hfind : (roster.find? fun r => decide (r.bay = b)) = none :=
      List.find?_eq_none.mpr fun rec hrec => by simp [hno rec hrec]
    rw [find?_insertRecord_self (by simp) hno, hfind]
    by_cases hline : y = x
    · simp [hline]
    · cases y <;> cases x <;> simp_all [Pair.get, Pair.set]
  · rw [find?_insertRecord_of_not (decide_eq_false (Ne.symm hbay)), if_neg fun hboth => hbay hboth.1]

/-- A part that is set is found, and every other part as before (R150). -/
theorem findPart_setPart (bay : Byte) (x : Line) (part : RosterPart) (roster : List RosterRecord) (b : Byte)
    (y : Line) :
    findPart b y (setPart bay x part roster) = if b = bay ∧ y = x then some part else findPart b y roster := by
  by_cases h : ∃ rec ∈ roster, rec.bay = bay
  · exact findPart_setPart_of_known h b y
  · exact findPart_setPart_of_new h b y

theorem length_setPart_of_known {bay : Byte} {x : Line} {part : RosterPart} {roster : List RosterRecord}
    (h : ∃ rec ∈ roster, rec.bay = bay) : (setPart bay x part roster).length = roster.length := by
  rw [setPart, if_pos ((knownBay_iff bay roster).mpr h), List.length_map]

theorem length_setPart_of_new {bay : Byte} {x : Line} {part : RosterPart} {roster : List RosterRecord}
    (h : ¬ ∃ rec ∈ roster, rec.bay = bay) : (setPart bay x part roster).length = roster.length + 1 := by
  rw [setPart, if_neg (by rwa [knownBay_iff]), insertRecord, List.orderedInsert_length]

/-! ### Foreign beacons (R149, R150) -/

/-- A foreign beacon that gives no part is forwarded and counted as a beacon reject. -/
theorem State.takeForeignBeacon_reject {x : Line} {budget interval state : Byte} {f : RingFrame} {s : State}
    (h : rosterPart f budget interval state s.timeBase = none) :
    s.takeForeignBeacon x budget interval state f
      = (s.forward x f).countRing fun c => { c with beaconRejects := c.beaconRejects + 1 } := by
  simp only [State.takeForeignBeacon, h]

/-- A foreign beacon that gives a part is forwarded and entered. -/
theorem State.takeForeignBeacon_enter {x : Line} {budget interval state : Byte} {f : RingFrame} {s : State}
    {part : RosterPart} (h : rosterPart f budget interval state s.timeBase = some part) :
    s.takeForeignBeacon x budget interval state f = (s.forward x f).changeRing (RingUnit.enter f.origin x part) := by
  simp only [State.takeForeignBeacon, h]

theorem RingUnit.enter_of_full {bay : Byte} {x : Line} {part : RosterPart} {r : RingUnit}
    (hnew : ¬ ∃ rec ∈ r.roster, rec.bay = bay) (hfull : 63 ≤ r.roster.length) :
    RingUnit.enter bay x part r = { r with counters := { r.counters with rosterFull := r.counters.rosterFull + 1 } } :=
  if_pos ⟨by simpa using hnew, hfull⟩

theorem RingUnit.enter_of_room {bay : Byte} {x : Line} {part : RosterPart} {r : RingUnit}
    (h : (∃ rec ∈ r.roster, rec.bay = bay) ∨ r.roster.length < 63) :
    RingUnit.enter bay x part r = { r with roster := setPart bay x part r.roster } := by
  refine if_neg ?_
  rintro ⟨hnew, hfull⟩
  rcases h with h | h
  · rw [(knownBay_iff bay r.roster).mpr h] at hnew
    cases hnew
  · exact absurd hfull (by simpa [Config.rosterCapacity] using h)

theorem State.changeRing_eq {f : RingUnit → RingUnit} {s : State} {r : RingUnit} (h : f s.ring = r) :
    s.changeRing f = { s with ring := r } := by rw [State.changeRing, h]

section
variable {l : Line} {bytes : List Byte} {s : State} {origin index lap : Byte} {seq : SeqNo}
  {budget interval state : Byte}

/-- A good beacon of a foreign bay is counted by its line and passed on (R149). -/
theorem exec_foreignBeacon (hlocked : (s.receivers.get l).state = .locked)
    (hgood : classifyLine bytes = .good ⟨.beacon, origin, index, lap, seq, [budget, interval, state]⟩)
    (hforeign : origin ≠ s.ownBay) :
    exec (.lineFrameReceived l bytes) s =
      .next ((s.countLine l fun c => { c with good := c.good + 1 }).takeForeignBeacon l budget interval state
        ⟨.beacon, origin, index, lap, seq, [budget, interval, state]⟩) := by
  rw [exec_lineFrame_good hlocked hgood]
  exact congrArg Host.Outcome.next (if_neg hforeign)

/-- A good beacon of a foreign bay that fails the check is counted as a beacon reject. -/
theorem exec_foreignBeacon_reject (hlocked : (s.receivers.get l).state = .locked)
    (hgood : classifyLine bytes = .good ⟨.beacon, origin, index, lap, seq, [budget, interval, state]⟩)
    (hforeign : origin ≠ s.ownBay)
    (h : ¬ BeaconPasses ⟨.beacon, origin, index, lap, seq, [budget, interval, state]⟩ budget interval state) :
    exec (.lineFrameReceived l bytes) s = .next (({
      s.forward l ⟨.beacon, origin, index, lap, seq, [budget, interval, state]⟩ with
      receivers := (s.countLine l fun c => { c with good := c.good + 1 }).receivers } : State).countRing fun c =>
        { c with beaconRejects := c.beaconRejects + 1 }) := by
  rw [exec_foreignBeacon hlocked hgood hforeign, State.takeForeignBeacon_reject (rosterPart_of_not_passes _ h),
    State.forward_countLine]

/-- A good beacon of a foreign bay that passes the check is entered. -/
theorem exec_foreignBeacon_enter {part : RosterPart} (hlocked : (s.receivers.get l).state = .locked)
    (hgood : classifyLine bytes = .good ⟨.beacon, origin, index, lap, seq, [budget, interval, state]⟩)
    (hforeign : origin ≠ s.ownBay)
    (h : rosterPart ⟨.beacon, origin, index, lap, seq, [budget, interval, state]⟩ budget interval state s.timeBase
      = some part) :
    exec (.lineFrameReceived l bytes) s = .next (({
      s.forward l ⟨.beacon, origin, index, lap, seq, [budget, interval, state]⟩ with
      receivers := (s.countLine l fun c => { c with good := c.good + 1 }).receivers } : State).changeRing
        (RingUnit.enter origin l part)) := by
  rw [exec_foreignBeacon hlocked hgood hforeign]
  rw [State.takeForeignBeacon_enter (part := part) (by exact h), State.forward_countLine]

end

/-- Settles O49: by whether the beacon passes the check, and whether the roster has room for it. -/
theorem foreignBeacon : Obligations.ForeignBeacon := by
  rintro l bytes s ⟨kind, origin, index, lap, seq, payload⟩ budget interval state hlocked hgood rfl hforeign rfl
  refine ⟨fun hfails => ?_, fun hpasses hnew hfull => ?_, fun hpasses hroom => ?_⟩
  · rw [exec_foreignBeacon_reject hlocked hgood hforeign hfails, State.forward_eq]
    rfl
  · obtain ⟨reported, -, hpart⟩ := rosterPart_of_passes s.timeBase hpasses
    rw [exec_foreignBeacon_enter hlocked hgood hforeign hpart, State.forward_eq]
    exact congrArg Host.Outcome.next (State.changeRing_eq (RingUnit.enter_of_full hnew hfull))
  · obtain ⟨reported, hcode, hpart⟩ := rosterPart_of_passes s.timeBase hpasses
    let part : RosterPart :=
      ⟨budget.toNat - lap.toNat, s.timeBase, s.timeBase + BitVec.ofNat 32 (3000 * interval.toNat), reported⟩
    refine ⟨setPart origin l part s.ring.roster, reported, hcode, ?_, ?_, fun bay x hne => ?_, fun hknown => ?_,
      fun hnew => ?_⟩
    · rw [exec_foreignBeacon_enter hlocked hgood hforeign hpart, State.forward_eq]
      exact congrArg Host.Outcome.next (State.changeRing_eq (RingUnit.enter_of_room hroom))
    · rw [findPart_setPart, if_pos ⟨rfl, rfl⟩]
    · rw [findPart_setPart, if_neg]
      rintro ⟨rfl, rfl⟩
      exact hne rfl
    · exact length_setPart_of_known hknown
    · exact length_setPart_of_new hnew

end Sys2Proof.Machine
end

section
namespace Sys2Proof.Machine

/-! ### Contact frames (R157 to R159) -/

theorem Mirror.acceptedStates_getLsbD (m : Mirror) (n : Fin 8) :
    m.acceptedStates.getLsbD n.val = (m.inputs.get n).accepted := by
  rw [Mirror.acceptedStates, Oct.getLsbD_bits, Oct.get_ofFn]

/-- The states that a contact frame carries (R158): the accepted ones, and the mask values of the disabled inputs. -/
def Mirror.shownStates (m : Mirror) : Byte :=
  (m.acceptedStates &&& m.enableMask) ||| (m.maskValues &&& ~~~ m.enableMask)

theorem Mirror.shownStates_getLsbD (m : Mirror) (n : Fin 8) :
    m.shownStates.getLsbD n.val =
      if m.enableMask.getLsbD n.val then (m.inputs.get n).accepted else m.maskValues.getLsbD n.val := by
  simp only [Mirror.shownStates, BitVec.getLsbD_or, BitVec.getLsbD_and, BitVec.getLsbD_not,
    Mirror.acceptedStates_getLsbD, n.isLt, decide_true, Bool.true_and]
  cases m.enableMask.getLsbD n.val <;> simp

/-- A contact frame while own-bay/0 has its publisher (R157 to R159). -/
theorem State.contactFrame_of_publisher {s : State} {e : Entry} {pub : Publisher}
    (he : findEntry ⟨s.ownBay, 0⟩ s.table = some e) (hpub : e.publisher = some pub) (k : ContactFrameKind) :
    s.contactFrame k = ({ s with
      mirror := s.mirror.framed k s.timeBase
      table := changeEntry (s.ownId 0) (fun e => some e.intake) s.table } : State).offerBoth .urgent
        (s.ownFrame .urgent 0 pub.seq s.mirror.payload) := by
  have hfind : (s.find (s.ownId 0)).bind (fun e => e.publisher) = some pub := by
    rw [show s.find (s.ownId 0) = some e from he, Option.bind_some, hpub]
  simp only [State.contactFrame, hfind]

/-- Settles O53: the frame, then the refresh timer's two cases. -/
theorem contactFrame : Obligations.ContactFrame := by
  refine ⟨fun k s e pub he hpub => ⟨changeEntry (s.ownId 0) (fun e => some e.intake) s.table, s.mirror.shownStates,
    s.mirror.shownStates_getLsbD, TableSet.intake he hpub, ?_⟩, fun s => ⟨fun hidle => ?_, fun hpublish due hdue => ?_⟩⟩
  · rw [State.contactFrame_of_publisher he hpub, State.offerBoth_eq]
    cases k <;> rfl
  · show execRefreshTimerExpiry s = _
    unfold execRefreshTimerExpiry
    rcases hidle with hstopped | hoff
    · simp only [hstopped]
    · simp only [hoff]
      split <;> rfl
  · show execRefreshTimerExpiry s = _
    simp only [execRefreshTimerExpiry, Option.mem_def.mp hdue, hpublish, if_true]

end Sys2Proof.Machine
end

section
namespace Sys2Proof.Machine

/-! ### Beacon emission (R141 to R143, R147, R148) -/

/-- A frame is placed in OWN when the egress is open and OWN has room (R123). -/
theorem Egress.judge_own_placed_iff (e : Egress) :
    (e.judge true (.normal .own) == .placed) = true ↔ e.queues.own.length < 4 := by
  rw [Egress.judge, if_neg (by simp)]
  split
  case isTrue hfull => exact iff_of_false (by simp) (not_lt.mpr hfull)
  case isFalse hroom => exact iff_of_true rfl (not_le.mp hroom)

/-- The egress of a line after an emission (R142 step 4). -/
def State.beaconEgress (f : RingFrame) (s : State) (l : Line) : Egress :=
  if (s.receivers.get l).state = .locked then
    (s.egresses.get l).offer true s.profile.serviceList s.profile.urgentBurst (.normal .own) f
  else s.egresses.get l

/-- The outstanding list of a line after an emission (R142 step 5). -/
def State.beaconOutstanding (f : RingFrame) (s : State) (l : Line) : List Outstanding :=
  if (s.receivers.get l).state = .locked ∧ (s.egresses.get l).queues.own.length < 4 then
    addOutstanding ⟨f.seq, s.timeBase⟩ (s.ring.outstanding.get l)
  else s.ring.outstanding.get l

theorem State.sendBeacon_eq (l : Line) (f : RingFrame) (s : State) :
    s.sendBeacon l f = { s with
      egresses := s.egresses.set l (s.beaconEgress f l)
      ring := { s.ring with outstanding := s.ring.outstanding.set l (s.beaconOutstanding f l) } } := by
  unfold State.beaconEgress State.beaconOutstanding
  by_cases hlocked : (s.receivers.get l).state = .locked
  · have hopen : s.isOpen l = true := (s.isOpen_iff l).mpr hlocked
    by_cases hroom : (s.egresses.get l).queues.own.length < 4
    · have hplace : s.wouldPlace l (.normal .own) = true := by
        rw [State.wouldPlace, hopen, Egress.judge_own_placed_iff]
        exact hroom
      rw [if_pos hlocked, if_pos ⟨hlocked, hroom⟩, State.sendBeacon, if_pos hopen, if_pos hplace,
        State.offerLine, hopen]
      rfl
    · have hplace : ¬ s.wouldPlace l (.normal .own) = true := by
        rw [State.wouldPlace, hopen, Egress.judge_own_placed_iff]
        exact hroom
      rw [if_pos hlocked, if_neg fun h => hroom h.2, State.sendBeacon, if_pos hopen, if_neg hplace,
        State.offerLine, hopen, Pair.set_get]
      rfl
  · have hclosed : ¬ s.isOpen l = true := fun h => hlocked ((s.isOpen_iff l).mp h)
    rw [if_neg hlocked, if_neg fun h => hlocked h.1, State.sendBeacon, if_neg hclosed, Pair.set_get, Pair.set_get]

/-- The beacon of an emission that leaves the ring state `ring` (R9, R142). -/
def State.emittedBeacon (ring : RingState) (s : State) : RingFrame :=
  ⟨.beacon, s.ownBay, 0, BitVec.ofNat 8 s.profile.lapBudget, s.ring.beaconSeq + 1,
    [BitVec.ofNat 8 s.profile.lapBudget, BitVec.ofNat 8 s.profile.beaconInterval, ring.code]⟩

/-- What an emission leaves (R142, R148): the egresses, the ports where the ring state changes, and the ring unit. -/
theorem State.emitBeacon_eq {s : State} {ring : RingState} (hring : s.ring.emission.state = ring) :
    s.emitBeacon = { s with
      egresses := ⟨s.beaconEgress (s.emittedBeacon ring) .a, s.beaconEgress (s.emittedBeacon ring) .b⟩
      ports := if ring = s.ring.state then s.ports else Quad.ofFn fun t => (s.ports.get t).raise .ring
      ring := { s.ring with
        beaconSeq := s.ring.beaconSeq + 1
        tally := min 3 (s.ring.tally + 1)
        state := ring
        outstanding :=
          ⟨s.beaconOutstanding (s.emittedBeacon ring) .a, s.beaconOutstanding (s.emittedBeacon ring) .b⟩
        returnAge := ⟨min 3 (s.ring.returnAge.a + 1), min 3 (s.ring.returnAge.b + 1)⟩ } } := by
  subst hring
  unfold State.emitBeacon
  dsimp only
  by_cases hsame : s.ring.emission.state = s.ring.state
  · have hkept : ¬ (s.changeRing RingUnit.emission).ring.state ≠ s.ring.state := not_not_intro hsame
    rw [if_neg hkept, if_pos hsame, State.sendBeacon_eq, State.sendBeacon_eq]
    rfl
  · have hchanged : (s.changeRing RingUnit.emission).ring.state ≠ s.ring.state := hsame
    rw [if_pos hchanged, if_neg hsame, State.sendBeacon_eq, State.sendBeacon_eq]
    rfl

/-- The ring state after an emission, in the statements' terms (R147). -/
theorem RingUnit.emission_state (r : RingUnit) :
    r.emission.state =
      if r.tally < 2 then r.state
      else if r.returnAge.a ≤ 2 ∧ r.returnAge.b ≤ 2 then .closed
      else if r.returnAge.a ≤ 2 ∨ r.returnAge.b ≤ 2 then .half
      else .opened := by
  unfold RingUnit.emission evaluateRing returning
  dsimp only
  by_cases htally : r.tally < 2
  · rw [if_pos htally, if_neg (by omega)]
  · rw [if_neg htally, if_pos (by omega)]
    by_cases ha : r.returnAge.a ≤ 2 <;> by_cases hb : r.returnAge.b ≤ 2 <;> simp [ha, hb]

theorem min_three_succ (n : Nat) : min 3 (n + 1) = if n < 3 then n + 1 else 3 := by
  split <;> omega

theorem addOutstanding_eq (r : Outstanding) (list : List Outstanding) :
    addOutstanding r list =
      (if (list.filter fun o => decide (o.seq ≠ r.seq)).length < 4 then list.filter fun o => decide (o.seq ≠ r.seq)
      else (list.filter fun o => decide (o.seq ≠ r.seq)).tail) ++ [r] := by
  unfold addOutstanding
  dsimp only
  rw [← ite_not]
  simp only [not_le, Config.outstandingCapacity]

/-- The time base alone moves when a timer expires (R7). -/
theorem State.advanceTo_eq (due : Time) (s : State) :
    s.advanceTo due = { s with timeBase := (s.advanceTo due).timeBase } := by
  unfold State.advanceTo
  split <;> rfl

/-- A running beacon timer is restarted at its expiry, and an emission performed (R141). -/
theorem exec_beaconTimer_running {s : State} {due : Time} (h : s.ring.beaconTimer = some due) :
    exec .beaconTimerExpiry s = .next (State.emitBeacon { s with
      timeBase := (s.advanceTo due).timeBase
      ring := { s.ring with
        beaconTimer := some ((s.advanceTo due).timeBase + millis s.profile.beaconInterval) } }) := by
  show execBeaconTimerExpiry s = _
  simp only [execBeaconTimerExpiry, h]
  rw [State.advanceTo_eq]
  rfl

/-- Settles O50: an emission is performed on the restarted timer, at the reading that the timer brings. -/
theorem beaconEmission : Obligations.BeaconEmission := by
  refine fun s => ⟨fun h => ?_, fun due hdue => ?_⟩
  · show execBeaconTimerExpiry s = _
    simp only [execBeaconTimerExpiry, h]
  · rw [exec_beaconTimer_running hdue, State.emitBeacon_eq (RingUnit.emission_state _)]
    simp only [State.beaconOutstanding, addOutstanding_eq, min_three_succ]
    rfl

end Sys2Proof.Machine
end

section
namespace Sys2Proof.Machine

/-! ### Ports and records under every step (O55, O57) -/

/-- Settles O55: legal ports are one of the parts that every step keeps. -/
theorem portsKept : Obligations.PortsKept := fun _ _ hs h => (step_kept h).ports hs

/-- Legal records are legal supervisions with evaluated alarms, beside a legal mirror. -/
theorem supervisedLegal_iff (s : State) :
    SupervisedLegal s ↔ SupervisionsLegal s ∧ AlarmsEvaluated s ∧ MirrorLegal s.mirror := by
  constructor
  · rintro ⟨hrecords, hmirror⟩
    exact ⟨fun e he sup hs => (hrecords e he sup hs).1, fun e he sup hs => (hrecords e he sup hs).2, hmirror⟩
  · rintro ⟨hlegal, halarms, hmirror⟩
    exact ⟨fun e he sup hs => ⟨hlegal e he sup hs, halarms e he sup hs⟩, hmirror⟩

/-- Settles O57: legal records are one of the parts that every step keeps. -/
theorem supervisionsKept : Obligations.SupervisionsKept := by
  intro s u hlegal halarms hmirror h
  have hkept := (step_kept h).supervised ((supervisedLegal_iff s).mpr ⟨hlegal, halarms, hmirror⟩)
  obtain ⟨hlegal', halarms', -⟩ := (supervisedLegal_iff u).mp hkept
  exact ⟨hlegal', halarms'⟩

end Sys2Proof.Machine
end

section
namespace Sys2Proof.Machine

/-! ### Claims and teardowns in the statements' terms (R18, R21, R35 to R38) -/

/-- An entry's publisher is a holder when there is a publisher, and it is that holder. -/
theorem Entry.publishedBy_iff {e : Entry} {h : Holder} :
    e.publishedBy h = true ↔ ∃ pub ∈ e.publisher, pub.holder = h := by
  simp [Entry.publishedBy]

/-- What settling leaves (R18, R21), by what the entry holds. -/
theorem Entry.settle_eq (e : Entry) :
    e.settle = if e.publisher = none ∧ e.members = Members.empty then none
      else some { e with sup := if e.members = Members.empty then none else e.sup } := by
  rcases e.settle_cases with ⟨hm, hp, hs⟩ | ⟨hm, hp, hs⟩ | ⟨hm, hs⟩
  · rw [hs, if_pos ⟨hp, hm⟩]
  · rw [hs, if_neg fun h => hp h.1, if_pos hm]
  · rw [hs, if_neg fun h => hm h.2, if_neg hm]

/-- The teardown of an entry is that of the statements (R38). -/
theorem Entry.teardown_eq (t : Trib) (e : Entry) : e.teardown t = tornEntry t e := by
  unfold Entry.teardown tornEntry
  by_cases hfree : e.publishedBy (.trib t) = false ∧ e.members.has (.trib t) = false
  · rw [if_pos hfree, if_neg (by simp [hfree])]
  · rw [if_neg hfree, if_pos, Entry.settle_eq]
    by_contra hnone
    exact hfree (by simpa using hnone)

/-- What is found after a teardown (R38). -/
theorem findEntry_teardown {table : List Entry} (ho : table.Pairwise fun x y => x.id.key < y.id.key) (t : Trib)
    (id : StreamId) :
    findEntry id (table.filterMap (Entry.teardown t)) = (findEntry id table).bind (tornEntry t) := by
  rw [findEntry_filterMap (fun _ _ => Entry.teardown_id) ho, funext (Entry.teardown_eq t)]

/-- A teardown changes the table and one port (R38, R100). -/
theorem State.teardown_eq (t : Trib) (s : State) :
    s.teardown t = { s with
      table := s.table.filterMap (Entry.teardown t)
      ports := s.ports.set t (tornPort (s.ports.get t)) } := rfl

/-- A claim put in a publisher state, by the publisher there is (R35, R37). -/
theorem Entry.setPublisherState_eq (t : Trib) (st : PublisherState) (e : Entry) :
    e.setPublisherState t st =
      match e.publisher with
      | some pub => if pub.holder = .trib t then { e with publisher := some { pub with state := st } } else e
      | none => e := by
  unfold Entry.setPublisherState Entry.publishedBy
  rcases hpub : e.publisher with _ | pub
  · rfl
  · simp

/-- What is found after the claims of a tributary are put in a publisher state (R35, R37). -/
theorem findEntry_setPublisherState (t : Trib) (st : PublisherState) (table : List Entry) (id : StreamId) :
    findEntry id (table.map (Entry.setPublisherState t st)) = (findEntry id table).map fun e =>
      match e.publisher with
      | some pub => if pub.holder = .trib t then { e with publisher := some { pub with state := st } } else e
      | none => e := by
  rw [findEntry_map (Entry.setPublisherState_id t st), funext (Entry.setPublisherState_eq t st)]

/-! ### The events of a link (R35 to R38, R84, R85) -/

/-- What a link loss leaves of a port (R85, R87). -/
theorem Port.linkLost_eq (p : Port) :
    p.linkLost = ⟨.down, p.holdTimer, [], [], [], none, false, 0, none, { p.counters with
      discarded := p.counters.discarded + BitVec.ofNat 16 (p.urgentQ.length + p.normalQ.length)
      aborts := if p.inFlight = none then p.counters.aborts else p.counters.aborts + 1
      linkLosses := p.counters.linkLosses + 1 }⟩ := by
  unfold Port.linkLost
  cases p.inFlight <;> rfl

/-- A lost port has no records left for a teardown to discard (R85). -/
theorem tornPort_linkLost (p : Port) : tornPort p.linkLost = p.linkLost := by
  simp [tornPort, Port.linkLost, Port.emptyQueues]

/-- Settles O19: the claims by `findEntry_setPublisherState`, the port by `Port.linkPresent_eq`. -/
theorem linkUp : Obligations.LinkUp := by
  refine fun t s => ⟨fun hup => if_neg (by simp [hup]), fun hlegal hdown =>
    ⟨s.table.map (Entry.setPublisherState t .active), ?_, findEntry_setPublisherState t .active s.table⟩⟩
  have hexec : exec (.linkUp t) s = .next
      (({ s with table := s.table.map (Entry.setPublisherState t .active) }).changePort t Port.linkPresent) :=
    if_pos hdown
  rw [hexec, State.changePort, Port.linkPresent_eq hlegal hdown]

/-- Settles O20: the claims HELD with a claim-hold time, the teardown without one. -/
theorem linkDown : Obligations.LinkDown := by
  intro t s
  dsimp only
  rw [← Port.linkLost_eq]
  refine ⟨fun hdown => if_neg (by simp [hdown]), fun hup hhold =>
    ⟨s.table.map (Entry.setPublisherState t .held), ?_, findEntry_setPublisherState t .held s.table⟩,
    fun hup hhold ho => ⟨s.table.filterMap (Entry.teardown t), ?_, findEntry_teardown ho t⟩⟩
  · show execLinkDown t s = _
    rw [execLinkDown, if_pos hup, if_neg hhold]
    simp only [State.changePort, Port.linkLost_eq]
    rfl
  · show execLinkDown t s = _
    rw [execLinkDown, if_pos hup, if_pos hhold, State.teardown_eq]
    simp [State.changePort, tornPort_linkLost]

/-- Settles O21: a stopped timer, and the teardown at the reading that the timer brings. -/
theorem claimHoldExpiry : Obligations.ClaimHoldExpiry := by
  refine fun t s => ⟨fun hstopped => ?_, fun ho due hdue =>
    ⟨s.table.filterMap (Entry.teardown t), ?_, findEntry_teardown ho t⟩⟩
  · show execClaimHoldExpiry t s = _
    simp only [execClaimHoldExpiry, hstopped]
  · show execClaimHoldExpiry t s = _
    simp only [execClaimHoldExpiry, Option.mem_def.mp hdue, State.teardown_eq, State.changePort, State.advanceTo_table,
      State.advanceTo_ports, Quad.set_set, Quad.get_set_self]

end Sys2Proof.Machine
end

section
namespace Sys2Proof.Machine

/-! ### Requests in the statements' terms (R165, R166) -/

/-- A request command whose request is next: its acting block's answer, and the reply (R165). -/
theorem exec_served {i : Instr} {t : Trib} {code : Byte} {fields : List Byte} {s : State} {r : Request}
    (hi : requestOf i = some (t, code, fields)) (hr : s.serving t i = some r) {u : State} {result : ResultCode}
    {answer : List Byte} (hact : actOf i (s.taken t) = ⟨u, result, answer⟩) :
    exec i s = .next (u.replied t r result answer) := by
  have htaken : actOf i (s.changePort t Port.takeRequest) = ⟨u, result, answer⟩ := hact
  rw [exec_request hi, State.serve_of_serving hr, State.execute, htaken]
  rfl

/-- Settles O30: the teardown is that of the statements, on the port without the request. -/
theorem detachTeardown : Obligations.DetachTeardown := by
  refine fun t s r hr ho => ⟨s.table.filterMap (Entry.teardown t), ?_, findEntry_teardown ho t⟩
  refine exec_served rfl hr ?_
  show Answer.done ((s.taken t).teardown t) = _
  rw [State.teardown_eq]
  simp [State.taken, Answer.done]

end Sys2Proof.Machine
end

section
namespace Sys2Proof.Machine

/-! ### Tables in the statements' terms (R16, R20, R21) -/

/-- An entry with a new identifier is placed (R20). -/
theorem TableSet.insert {table : List Entry} {e : Entry} (hnew : findEntry e.id table = none) :
    TableSet table (insertEntry e table) e.id (some e) where
  entry := by rw [findEntry_insertEntry hnew, if_pos rfl]
  others y hy := by rw [findEntry_insertEntry hnew, if_neg hy]

/-- The entry of an identifier is changed and kept. -/
theorem TableSet.change {table : List Entry} {id : StreamId} {f : Entry → Entry} (hf : ∀ e, (f e).id = e.id) {e : Entry}
    (he : findEntry id table = some e) : TableSet table (changeEntry id (fun e => some (f e)) table) id (some (f e)) where
  entry := by rw [findEntry_changeEntry hf, if_pos rfl, he, Option.map_some]
  others y hy := by rw [findEntry_changeEntry hf, if_neg hy]

/-- The entry of an identifier is changed or freed, in an ordered table. -/
theorem TableSet.changeOrFree {table : List Entry} (ho : table.Pairwise fun x y => x.id.key < y.id.key) {id : StreamId}
    {f : Entry → Option Entry} (hf : ∀ e e', f e = some e' → e'.id = e.id) {e : Entry}
    (he : findEntry id table = some e) : TableSet table (changeEntry id f table) id (f e) where
  entry := by rw [findEntry_changeEntry_self hf ho, he, Option.bind_some]
  others _ hy := findEntry_changeEntry_ne hf table hy

/-- A change that keeps every entry keeps the number of entries. -/
theorem length_changeEntry_some (id : StreamId) (f : Entry → Entry) (table : List Entry) :
    (changeEntry id (fun e => some (f e)) table).length = table.length := by
  unfold changeEntry
  induction table with
  | nil => rfl
  | cons x rest ih => by_cases hx : x.id = id <;> simp [hx, ih]

/-- The table is full when it holds 64 entries (R20). -/
theorem freeSlots_eq_zero_iff (table : List Entry) : freeSlots table = 0 ↔ 64 ≤ table.length :=
  Nat.sub_eq_zero_iff_le

/-- A tributary is not in the place of the publisher when there is no publisher, or another one. -/
theorem Entry.publishedBy_false {e : Entry} {h : Holder} (hother : ∀ pub ∈ e.publisher, pub.holder ≠ h) :
    e.publishedBy h = false := by
  by_contra hby
  obtain ⟨pub, hpub, hholder⟩ := Entry.publishedBy_iff.mp (by simpa using hby)
  exact hother pub hpub hholder

/-- An answer that leaves the table as it is. -/
theorem Answer.only_eq (s : State) (result : ResultCode) :
    Answer.only s result = ⟨{ s with table := s.table }, result, []⟩ := rfl

end Sys2Proof.Machine
end

section
namespace Sys2Proof.Machine

/-! ### CLAIM and RELEASE (R22, R24) -/

theorem claimIndexRefused_iff (index : Byte) : claimIndexRefused index = true ↔ index = 0 ∨ 63 < index.toNat := by
  simp [claimIndexRefused]

theorem claimIndexRefused_eq_false {index : Byte} (hzero : index ≠ 0) (hmax : index.toNat ≤ 63) :
    claimIndexRefused index = false := by
  rw [← Bool.not_eq_true, claimIndexRefused_iff]
  exact not_or.mpr ⟨hzero, not_lt.mpr hmax⟩

theorem classOfCode_none {cls : Byte} (h : cls.toNat ∉ [1, 2, 3]) : classOfCode cls = none := by
  simp only [List.mem_cons, List.not_mem_nil, or_false, not_or] at h
  unfold classOfCode
  split
  · exact absurd ‹_› h.1
  · exact absurd ‹_› h.2.1
  · exact absurd ‹_› h.2.2
  · rfl

section
variable {t : Trib} {index : Byte} {s : State}

/-- Case 1 of a CLAIM: an index or a class out of range. -/
theorem claimEffect_range {cls : Byte} (h : index = 0 ∨ 63 < index.toNat ∨ cls.toNat ∉ [1, 2, 3]) :
    claimEffect t index cls s = .only s .range := by
  unfold claimEffect
  split
  · rfl
  case h_2 c hc =>
    rw [if_pos]
    rw [claimIndexRefused_iff]
    rcases h with h | h | h
    · exact .inl h
    · exact .inr h
    · rw [classOfCode_none h] at hc
      cases hc

variable (hindex : claimIndexRefused index = false) (cls : StreamClass)
include hindex

/-- Case 2 of a CLAIM: no entry and no free slot. -/
theorem claimEffect_full (hnone : findEntry (s.ownId index) s.table = none) (hfull : 64 ≤ s.table.length) :
    claimEffect t index cls.code s = .only s .full := by
  have hfind : s.find (s.ownId index) = none := hnone
  simp only [claimEffect, classOfCode_code, hindex, hfind, if_pos ((freeSlots_eq_zero_iff _).mpr hfull)]
  rfl

/-- Case 3 of a CLAIM: no entry, and a free slot for one. -/
theorem claimEffect_new (hnone : findEntry (s.ownId index) s.table = none) (hfree : s.table.length < 64) :
    claimEffect t index cls.code s = .done { s with
      table := insertEntry (Entry.make (s.ownId index) cls (some ⟨.trib t, .active, 0⟩) Members.empty none) s.table } := by
  have hfind : s.find (s.ownId index) = none := hnone
  have hslots : freeSlots s.table ≠ 0 := fun h => by
    rw [freeSlots_eq_zero_iff] at h
    omega
  simp only [claimEffect, classOfCode_code, hindex, hfind, if_neg hslots]
  rfl

/-- Case 4 of a CLAIM: Tn is a subscriber of the entry. -/
theorem claimEffect_member {e : Entry} (he : findEntry (s.ownId index) s.table = some e)
    (hmember : e.members.has (.trib t) = true) : claimEffect t index cls.code s = .only s .range := by
  have hfind : s.find (s.ownId index) = some e := he
  simp only [claimEffect, classOfCode_code, hindex, hfind, if_pos hmember]
  rfl

/-- Case 5 of a CLAIM: an entry without a publisher. -/
theorem claimEffect_unpublished {e : Entry} (he : findEntry (s.ownId index) s.table = some e)
    (hmember : e.members.has (.trib t) = false) (hpub : e.publisher = none) :
    claimEffect t index cls.code s = .done { s with
      table := changeEntry (s.ownId index)
        (fun e => some { e with publisher := some ⟨.trib t, .active, 0⟩, cls := cls }) s.table } := by
  have hfind : s.find (s.ownId index) = some e := he
  simp only [claimEffect, classOfCode_code, hindex, hfind, hmember, hpub]
  rfl

/-- Cases 6 to 8 of a CLAIM: Tn's own claim, another's that is HELD, and another's that is ACTIVE. -/
theorem claimEffect_published {e : Entry} {pub : Publisher} (he : findEntry (s.ownId index) s.table = some e)
    (hmember : e.members.has (.trib t) = false) (hpub : e.publisher = some pub) :
    claimEffect t index cls.code s = .only s
      (if pub.holder = .trib t then .done else if pub.state = .held then .held else .taken) := by
  have hfind : s.find (s.ownId index) = some e := he
  simp only [claimEffect, classOfCode_code, hindex, hfind, hmember, hpub]
  by_cases hown : pub.holder = .trib t
  · simp [hown, Answer.done, Answer.only]
  · cases hstate : pub.state <;> simp [hown]

/-- RELEASE of a claim that Tn does not hold (R24). -/
theorem releaseEffect_notHeld
    (hother : ∀ e ∈ findEntry (s.ownId index) s.table, ∀ pub ∈ e.publisher, pub.holder ≠ .trib t) :
    releaseEffect t index s = .only s .notHeld := by
  unfold releaseEffect
  rw [if_neg (by simp [hindex])]
  split
  · rfl
  case h_2 e he =>
    rw [if_neg]
    simp [Entry.publishedBy_false (hother e he)]

/-- RELEASE of a claim that Tn holds (R24). -/
theorem releaseEffect_held {e : Entry} (he : findEntry (s.ownId index) s.table = some e)
    (hby : e.publishedBy (.trib t) = true) :
    releaseEffect t index s = .done { s with table := changeEntry (s.ownId index) Entry.unpublish s.table } := by
  have hfind : s.find (s.ownId index) = some e := he
  simp only [releaseEffect, hindex, hfind, if_pos hby]
  rfl

end

/-- Settles O26, case by case in the order of R22. -/
theorem claimCases : Obligations.ClaimCases := by
  intro t index cls s r hr
  refine ⟨fun h => exec_served rfl hr (claimEffect_range h), ?_⟩
  rintro hzero hmax c rfl
  have hindex := claimIndexRefused_eq_false hzero hmax
  refine ⟨fun hnone hfull => exec_served rfl hr (claimEffect_full hindex c hnone hfull), fun hnone hfree => ?_,
    fun e he => ⟨fun hm => exec_served rfl hr (claimEffect_member hindex c he hm),
      fun hm => ⟨fun hpub => ?_, fun pub hpub => ?_⟩⟩⟩
  · exact ⟨_, exec_served rfl hr (claimEffect_new hindex c hnone hfree), length_insertEntry .., .insert hnone⟩
  · exact ⟨_, exec_served rfl hr (claimEffect_unpublished hindex c he hm hpub), length_changeEntry_some ..,
      .change (f := fun e => { e with publisher := some ⟨.trib t, .active, 0⟩, cls := c }) (fun _ => rfl) he⟩
  · have hact := claimEffect_published (t := t) (s := s.taken t) hindex c he hm hpub
    refine ⟨fun hown => ?_, fun hother hheld => ?_, fun hother hactive => ?_⟩
    · rw [if_pos hown] at hact
      exact exec_served rfl hr hact
    · rw [if_neg hother, if_pos hheld] at hact
      exact exec_served rfl hr hact
    · rw [if_neg hother, if_neg (by simp [hactive])] at hact
      exact exec_served rfl hr hact

/-- What a release leaves of the entry (R24), in the statements' terms. -/
theorem Entry.unpublish_eq (e : Entry) :
    e.unpublish = if e.members = Members.empty then none else some { e with publisher := none } := by
  rw [Entry.unpublish, Entry.settle_eq]
  by_cases hm : e.members = Members.empty <;> simp [hm]

/-- Settles O27, result by result. -/
theorem releaseCases : Obligations.ReleaseCases := by
  intro t index s r hr ho
  refine ⟨fun h => ?_, fun hzero hmax hother => ?_, fun hzero hmax e he pub hpub hown => ?_⟩
  · exact exec_served rfl hr (if_pos ((claimIndexRefused_iff index).mpr h))
  · exact exec_served rfl hr (releaseEffect_notHeld (claimIndexRefused_eq_false hzero hmax) hother)
  · refine ⟨_, exec_served rfl hr (releaseEffect_held (claimIndexRefused_eq_false hzero hmax) he
      (Entry.publishedBy_iff.mpr ⟨pub, hpub, hown⟩)), ?_⟩
    have hset := TableSet.changeOrFree ho (fun _ _ => Entry.unpublish_id) he
    rwa [Entry.unpublish_eq] at hset

end Sys2Proof.Machine
end

section
namespace Sys2Proof.Machine

/-! ### JOIN and LEAVE (R26 to R32) -/

/-- A bay that JOIN, LEAVE and READ STREAM refuse (R1). -/
theorem State.bayRefused_iff (s : State) (bay : Byte) :
    s.bayRefused bay = true ↔ (bay = 0 ∨ bay = 255) ∧ bay ≠ s.ownBay := by
  have hvalid : validBay bay = false ↔ bay = 0 ∨ bay = 255 := by
    rw [← Bool.not_eq_true, validBay_iff]
    tauto
  simp [State.bayRefused, hvalid]

/-- Test 1 of a JOIN (R26), clause by clause. -/
theorem joinRefused_iff (t : Trib) (bay index : Byte) (p : BitVec 24) (m : Byte) (s : State) :
    joinRefused t ⟨bay, index⟩ p.toNat m.toNat s = true ↔
      ((bay = 0 ∨ bay = 255) ∧ bay ≠ s.ownBay) ∨ 63 < index.toNat ∨ p.toNat < 50 ∨ m.toNat < 2 ∨ 15 < m.toNat
      ∨ (bay = s.ownBay ∧ ∃ e ∈ findEntry ⟨bay, index⟩ s.table, ∃ pub ∈ e.publisher, pub.holder = .trib t)
      ∨ (bay = s.ownBay ∧ index = 0) := by
  have hperiod : within 50 16777215 p.toNat = false ↔ p.toNat < 50 := by
    have := p.isLt
    simp only [within, decide_eq_false_iff_not]
    omega
  have hmultiplier : within 2 15 m.toNat = false ↔ m.toNat < 2 ∨ 15 < m.toNat := by
    simp only [within, decide_eq_false_iff_not]
    omega
  have hpublisher : (((s.find ⟨bay, index⟩).map fun e => e.publishedBy (.trib t)) == some true) = true ↔
      ∃ e ∈ findEntry ⟨bay, index⟩ s.table, ∃ pub ∈ e.publisher, pub.holder = .trib t := by
    simp [State.find, Entry.publishedBy_iff]
  simp only [joinRefused, Bool.or_eq_true, Bool.and_eq_true, decide_eq_true_eq, beq_iff_eq, Bool.not_eq_true',
    State.bayRefused_iff, hperiod, hmultiplier, or_assoc]
  rw [← hpublisher, beq_iff_eq]

/-- A join of an entry that is not there (R28). -/
theorem TableSet.join_of_none {table : List Entry} {id : StreamId} (hnone : findEntry id table = none) (own : Bool)
    (x : Holder) (p m : Nat) :
    TableSet table (joinTable own id x p m table) id (some (Entry.make id .general none (Members.empty.put x true)
      (if own then none else some (Supervision.initial p m)))) := by
  rw [joinTable_of_none hnone]
  exact .insert hnone

/-- A join of an entry that is there (R27, R30). -/
theorem TableSet.join_of_some {table : List Entry} {id : StreamId} {e : Entry} (he : findEntry id table = some e)
    (own : Bool) (x : Holder) (p m : Nat) :
    TableSet table (joinTable own id x p m table) id (some (e.joined x p m)) := by
  rw [joinTable_of_some he]
  exact .change (f := Entry.joined x p m) (fun _ => rfl) he

section
variable {t : Trib} {id : StreamId} {p m : Nat} {s : State}

theorem joinEffect_full (hrefused : joinRefused t id p m s = false) (hnone : findEntry id s.table = none)
    (hfull : 64 ≤ s.table.length) : joinEffect t id p m s = .only s .full := by
  rw [joinEffect, hrefused, if_neg (by simp), if_pos ⟨hnone, (freeSlots_eq_zero_iff _).mpr hfull⟩]

theorem joinEffect_done (hrefused : joinRefused t id p m s = false)
    (hroom : findEntry id s.table = none → s.table.length < 64) :
    joinEffect t id p m s = .done { s with table := joinTable (id.bay == s.ownBay) id (.trib t) p m s.table } := by
  rw [joinEffect, hrefused, if_neg (by simp), if_neg]
  rintro ⟨hnone, hfull⟩
  rw [freeSlots_eq_zero_iff] at hfull
  have := hroom hnone
  omega

end

/-- Settles O28: RANGE, FULL, a new entry, and an entry that is there. -/
theorem joinCases : Obligations.JoinCases := by
  intro t bay index p m s r hr
  dsimp only
  rw [← joinRefused_iff]
  refine ⟨fun hrefused => exec_served rfl hr (if_pos hrefused), fun haccepted => ?_⟩
  have hrefused : joinRefused t ⟨bay, index⟩ p.toNat m.toNat (s.taken t) = false := Bool.eq_false_of_not_eq_true haccepted
  refine ⟨fun hnone hfull => exec_served rfl hr (joinEffect_full hrefused hnone hfull), fun hnone hfree => ?_,
    fun e he => ?_⟩
  · refine ⟨_, exec_served rfl hr (joinEffect_done hrefused fun _ => hfree), ?_, ?_⟩
    · exact (length_joinTable ..).trans (congrArg _ (if_pos hnone))
    · have hset := TableSet.join_of_none hnone (bay == s.ownBay) (.trib t) p.toNat m.toNat
      simp only [beq_iff_eq] at hset
      exact hset
  · refine ⟨_, exec_served rfl hr (joinEffect_done hrefused fun hnone => ?_), ?_, ?_⟩
    · exact absurd (he.symm.trans hnone) (by simp)
    · exact (length_joinTable ..).trans (congrArg _ (if_neg fun hnone => absurd (he.symm.trans hnone) (by simp)))
    · exact .join_of_some he ..

/-- What a leaving makes of the entry (R31), in the statements' terms. -/
theorem Entry.leave_eq (t : Trib) (e : Entry) :
    e.leave (.trib t) =
      if e.members.put (.trib t) false ≠ Members.empty then some { e with members := e.members.put (.trib t) false }
      else if e.publisher = none then none
      else some { e with members := e.members.put (.trib t) false, sup := none } := by
  rw [Entry.leave, Entry.settle_eq]
  by_cases hm : e.members.put (.trib t) false = Members.empty <;> simp [hm]

section
variable {t : Trib} {id : StreamId} {s : State} (hrange : ¬ (s.bayRefused id.bay = true ∨ 63 < id.index.toNat))
include hrange

theorem leaveEffect_notHeld (hnot : ∀ e ∈ findEntry id s.table, e.members.has (.trib t) = false) :
    leaveEffect t id s = .only s .notHeld := by
  unfold leaveEffect
  rw [if_neg hrange]
  split
  · rfl
  case h_2 e he => rw [hnot e he, if_neg (by simp)]

theorem leaveEffect_done {e : Entry} (he : findEntry id s.table = some e) (hmember : e.members.has (.trib t) = true) :
    leaveEffect t id s = .done { s with table := leaveTable id (.trib t) s.table } := by
  have hfind : s.find id = some e := he
  simp only [leaveEffect, if_neg hrange, hfind, if_pos hmember]

end

/-- Settles O29, result by result. -/
theorem leaveCases : Obligations.LeaveCases := by
  intro t bay index s r hr ho
  dsimp only
  rw [← State.bayRefused_iff]
  refine ⟨fun hrefused => exec_served rfl hr (if_pos hrefused), fun hrange hnot => ?_, fun hrange e he hmember => ?_⟩
  · exact exec_served rfl hr (leaveEffect_notHeld (s := s.taken t) hrange hnot)
  · refine ⟨_, exec_served rfl hr (leaveEffect_done (s := s.taken t) hrange he hmember), ?_⟩
    have hset := TableSet.changeOrFree ho (fun _ _ => Entry.leave_id) he (f := Entry.leave (.trib t))
    rwa [Entry.leave_eq] at hset

end Sys2Proof.Machine
end

section
namespace Sys2Proof.Machine

/-! ### Fields out of range (R128, R160, R167 to R169) -/

/-- A field is out of range when it is present and fails its check (R168). -/
theorem present_eq_false_iff {α : Type} {ok : α → Bool} {field : Option α} :
    present ok field = false ↔ ∃ x ∈ field, ok x = false := by
  cases field <;> simp [present]

theorem within_eq_false_iff {lo hi n : Nat} : within lo hi n = false ↔ n < lo ∨ hi < n := by
  simp only [within, decide_eq_false_iff_not]
  omega

theorem not_lt_byte_toNat (b : Byte) : ¬ 255 < b.toNat := by
  have := b.isLt
  omega

/-! ### Service lists (R128) -/

theorem mem_normalQueues (q : NormalQueue) : q ∈ normalQueues := by
  rcases q with _ | t | _
  · decide
  · cases t <;> decide
  · decide

theorem normalQueueOfCode_eq_some_iff {c : Byte} {q : NormalQueue} : normalQueueOfCode c = some q ↔ q.code = c := by
  constructor
  · intro h
    unfold normalQueueOfCode at h
    split at h <;> cases h
    all_goals
      rename_i hc
      exact (eq_ofNat_of_toNat hc).symm
  · rintro rfl
    exact normalQueueOfCode_code q

/-- The codes of the normal queues are 0 to 5 (R168). -/
theorem mem_range_normalQueueCode {c : Byte} : c ∈ Set.range NormalQueue.code ↔ c.toNat ≤ 5 := by
  constructor
  · rintro ⟨q, rfl⟩
    rcases q with _ | t | _
    · decide
    · cases t <;> decide
    · decide
  · intro h
    obtain ⟨q, hq⟩ : ∃ q, normalQueueOfCode c = some q := by
      unfold normalQueueOfCode
      interval_cases c.toNat <;> exact ⟨_, rfl⟩
    exact ⟨q, normalQueueOfCode_eq_some_iff.mp hq⟩

theorem NormalQueue.code_injective : Function.Injective NormalQueue.code := fun q r h => by
  have hq := normalQueueOfCode_code q
  rw [h, normalQueueOfCode_code] at hq
  exact (Option.some.inj hq).symm

/-- The codes that name a service list are the codes of its positions (R168). -/
theorem serviceListOf_eq_some_iff {codes : List Byte} {list : List NormalQueue} :
    serviceListOf codes = some list ↔ list.map NormalQueue.code = codes := by
  unfold serviceListOf
  induction codes generalizing list with
  | nil => simp [eq_comm]
  | cons c rest ih =>
    rw [List.mapM_cons]
    simp only [Option.bind_eq_bind, Option.bind_eq_some_iff, Option.pure_def, Option.some.injEq, ih,
      normalQueueOfCode_eq_some_iff]
    constructor
    · rintro ⟨q, rfl, tail, rfl, rfl⟩
      rfl
    · intro h
      obtain ⟨q, tail, rfl, hq, htail⟩ := List.map_eq_cons_iff.mp h
      exact ⟨q, hq, tail, htail, rfl⟩

/-- A list of queues that names fewer than six of them misses a code (R128). -/
theorem exists_code_notMem_iff (list : List NormalQueue) :
    (∃ k : Nat, k ≤ 5 ∧ BitVec.ofNat 8 k ∉ list.map NormalQueue.code) ↔ ∃ q : NormalQueue, q ∉ list := by
  constructor
  · rintro ⟨k, hk, hmiss⟩
    obtain ⟨q, hq⟩ := mem_range_normalQueueCode.mpr (show (BitVec.ofNat 8 k).toNat ≤ 5 by rw [BitVec.toNat_ofNat]; omega)
    exact ⟨q, fun hmem => hmiss (hq ▸ List.mem_map_of_mem hmem)⟩
  · rintro ⟨q, hmiss⟩
    refine ⟨q.code.toNat, mem_range_normalQueueCode.mp ⟨q, rfl⟩, ?_⟩
    rw [BitVec.ofNat_toNat, BitVec.setWidth_eq, List.mem_map_of_injective NormalQueue.code_injective]
    exact hmiss

/-- A service list is out of range when it is too long, has a code of no queue, or misses a queue (R128). -/
theorem validServiceList_eq_false_iff (codes : List Byte) :
    validServiceList codes = false ↔
      12 < codes.length ∨ (∃ c ∈ codes, 5 < c.toNat) ∨ ∃ k : Nat, k ≤ 5 ∧ BitVec.ofNat 8 k ∉ codes := by
  by_cases hcodes : ∀ c ∈ codes, c ∈ Set.range NormalQueue.code
  · obtain ⟨list, rfl⟩ : codes ∈ Set.range (List.map NormalQueue.code) := by
      rw [Set.range_list_map]
      exact hcodes
    have hnone : ¬ ∃ c ∈ list.map NormalQueue.code, 5 < c.toNat := by
      rintro ⟨c, hc, hlarge⟩
      exact absurd (mem_range_normalQueueCode.mp (hcodes c hc)) (not_le.mpr hlarge)
    have hall : (normalQueues.all fun q => decide (q ∈ list)) = false ↔ ∃ q : NormalQueue, q ∉ list := by
      simp [List.all_eq_false, mem_normalQueues]
    have hempty : list.length < 1 → ∃ q : NormalQueue, q ∉ list := fun h =>
      ⟨.fwd, by rw [List.length_eq_zero_iff.mp (Nat.lt_one_iff.mp h)]; exact List.not_mem_nil⟩
    simp only [validServiceList, serviceListOf_eq_some_iff.mpr rfl, Bool.and_eq_false_iff, within_eq_false_iff, hall,
      exists_code_notMem_iff, hnone, List.length_map, false_or]
    tauto
  · push Not at hcodes
    obtain ⟨c, hc, hbad⟩ := hcodes
    have hnone : serviceListOf codes = none := by
      rcases hs : serviceListOf codes with _ | list
      · rfl
      · rw [← serviceListOf_eq_some_iff.mp hs] at hc
        obtain ⟨q, -, rfl⟩ := List.mem_map.mp hc
        exact absurd ⟨q, rfl⟩ hbad
    refine iff_of_true (by rw [validServiceList, hnone]) (.inr (.inl ⟨c, hc, ?_⟩))
    rwa [mem_range_normalQueueCode, not_le] at hbad

/-- A SETUP is out of range when one of its present fields is (R168). -/
theorem setupInRange_eq_false_iff (f : SetupFields) :
    ((∃ b ∈ f.lapBudget, b.toNat < 2 ∨ 63 < b.toNat)
        ∨ (∃ b ∈ f.beaconInterval, b.toNat < 1 ∨ 100 < b.toNat)
        ∨ (∃ w ∈ f.claimHold, 60000 < w.toNat)
        ∨ (∃ codes ∈ f.serviceList, 12 < codes.length ∨ (∃ c ∈ codes, 5 < c.toNat)
            ∨ ∃ k : Nat, k ≤ 5 ∧ BitVec.ofNat 8 k ∉ codes)
        ∨ (∃ b ∈ f.urgentBurst, b.toNat < 1 ∨ 4 < b.toNat)
        ∨ (∃ b ∈ f.floorA, 15 < b.toNat) ∨ (∃ b ∈ f.floorB, 15 < b.toNat)
        ∨ (∃ b ∈ f.dwell, b.toNat < 1 ∨ 32 < b.toNat)
        ∨ (∃ w ∈ f.qualityPeriod, w.toNat < 1 ∨ 1000 < w.toNat)
        ∨ (∃ b ∈ f.qualityThreshold, b.toNat < 1)
        ∨ (∃ w ∈ f.skewLimit, 16383 < w.toNat)) ↔ setupInRange f = false := by
  simp only [setupInRange, Bool.and_eq_false_iff, present_eq_false_iff, validServiceList_eq_false_iff,
    within_eq_false_iff, Nat.not_lt_zero, false_or, not_lt_byte_toNat, or_false, or_assoc]

/-! ### Fields of a MIRROR (R160, R167, R169) -/

theorem levelOfCode_eq_none_iff (c : Byte) : levelOfCode c = none ↔ 1 < c.toNat := by
  unfold levelOfCode
  rcases c.toNat with _ | _ | n <;> simp

theorem policyOfCode_eq_none_iff (c : Byte) : policyOfCode c = none ↔ 1 < c.toNat := by
  unfold policyOfCode
  rcases c.toNat with _ | _ | n <;> simp

theorem bitOfCode_eq_none_iff (c : Byte) : bitOfCode c = none ↔ 7 < c.toNat := by
  unfold bitOfCode
  split <;> simp <;> omega

/-- A binding is out of range by its bay, its bit, its policy or its safe level (R160, R167). -/
theorem bindingOf_eq_none_iff (ownBay : Byte) (g : BindingFields) :
    bindingOf ownBay g = none ↔
      g.bay = 0 ∨ g.bay = 255 ∨ g.bay = ownBay ∨ 7 < g.bit.toNat ∨ 1 < g.policy.toNat ∨ 1 < g.safe.toNat := by
  rw [← bitOfCode_eq_none_iff, ← policyOfCode_eq_none_iff, ← levelOfCode_eq_none_iff]
  simp only [bindingOf, validBay_iff]
  by_cases hbay : (g.bay ≠ 0 ∧ g.bay ≠ 255) ∧ g.bay ≠ ownBay
  · obtain ⟨⟨hzero, hmax⟩, hown⟩ := hbay
    rw [if_pos ⟨⟨hzero, hmax⟩, hown⟩]
    simp only [hzero, hmax, hown, false_or]
    rcases bitOfCode g.bit with _ | bit
    · simp
    rcases policyOfCode g.policy with _ | policy
    · simp
    rcases levelOfCode g.safe with _ | safe <;> simp
  · rw [if_neg hbay]
    exact iff_of_true rfl (by tauto)

/-- A named binding is out of range when it is one that cannot be (R169). -/
theorem bindings_eq_false_iff (ownBay : Byte) (bindings : Oct (Option (Option BindingFields))) :
    bindings.toList.all (present (bindingInRange ownBay)) = false ↔
      ∃ (n : Fin 8) (g : BindingFields), bindings.get n = some (some g) ∧ bindingOf ownBay g = none := by
  have hnamed : ∀ x : Option (Option BindingFields), present (bindingInRange ownBay) x = false ↔
      ∃ g, x = some (some g) ∧ bindingOf ownBay g = none := by
    intro x
    rcases x with _ | _ | g
    · simp [present]
    · simp [present, bindingInRange]
    · simp [present, bindingInRange]
  simp only [List.all_eq_false, Oct.mem_toList, Bool.not_eq_true, exists_exists_eq_and, hnamed]

/-- A MIRROR is out of range when one of its present fields is (R169). -/
theorem mirrorInRange_eq_false_iff (ownBay : Byte) (f : MirrorFields) :
    ((∃ b ∈ f.publish, 1 < b.toNat) ∨ (∃ b ∈ f.debounce, b.toNat < 1 ∨ 16 < b.toNat)
        ∨ (∃ w ∈ f.refresh, w.toNat < 10 ∨ 1000 < w.toNat)
        ∨ (∃ (n : Fin 8) (g : BindingFields), f.bindings.get n = some (some g)
            ∧ (g.bay = 0 ∨ g.bay = 255 ∨ g.bay = ownBay ∨ 7 < g.bit.toNat ∨ 1 < g.policy.toNat ∨ 1 < g.safe.toNat)))
      ↔ mirrorInRange ownBay f = false := by
  simp only [mirrorInRange, Bool.and_eq_false_iff, present_eq_false_iff, within_eq_false_iff, bindings_eq_false_iff,
    Option.isSome_eq_false_iff, Option.isNone_iff_eq_none, levelOfCode_eq_none_iff, bindingOf_eq_none_iff, or_assoc]

/-- Publishing is turned on by a request that names it, while it is off (R33, R34). -/
theorem turnsOn_eq (f : MirrorFields) (held : Bool) :
    (publishAfter f held && !held).toNat = if f.publish = some 1 ∧ held = false then 1 else 0 := by
  unfold publishAfter
  rcases f.publish with _ | b
  · cases held <;> rfl
  · by_cases hb : b = 1
    · subst hb
      cases held <;> rfl
    · show ((b == 1) && !held).toNat = _
      rw [beq_eq_false_iff_ne.mpr hb, if_neg fun h => hb (Option.some.inj h.1)]
      rfl

/-- The slots a MIRROR needs, in the statements' terms (R34). -/
theorem slotsNeeded_eq (before after : List Byte) (turnsOn : Bool) (table : List Entry) :
    slotsNeeded before after turnsOn table =
      (after.filter fun b => decide (b ∉ before) && decide (findEntry ⟨b, 0⟩ table = none)).length + turnsOn.toNat := by
  unfold slotsNeeded newlyBound
  rw [List.filter_filter]
  congr 2
  refine List.filter_congr fun b _ => ?_
  rw [Bool.and_comm]
  rcases findEntry ⟨b, 0⟩ table with _ | e <;> rfl

/-- Settles O32: the ranges of SETUP and of MIRROR, and the slots of MIRROR. -/
theorem settingsRefused : Obligations.SettingsRefused := by
  refine ⟨fun t f s r hr => ⟨setupInRange_eq_false_iff f, fun hrange => exec_served rfl hr ?_⟩,
    fun t f s r hr => ⟨mirrorInRange_eq_false_iff s.ownBay f, fun hrange => exec_served rfl hr (if_pos hrange),
      fun hrange hneeded hsize => exec_served rfl hr ?_⟩⟩
  · exact if_neg (by simp [hrange])
  · rw [← turnsOn_eq, ← slotsNeeded_eq] at hneeded
    show mirrorEffect t f (s.taken t) = _
    rw [mirrorEffect, if_neg (by rw [State.taken, hrange]; simp), if_pos]
    · rfl
    · unfold freeSlots Config.tableSlots
      exact (Nat.sub_lt_iff_lt_add hsize).mpr (by rwa [Nat.add_comm] at hneeded)

end Sys2Proof.Machine
end

section
namespace Sys2Proof.Machine

/-! ### The arrival as one operation on the entry (R43, R52 to R56, R73 to R75) -/

/-- What an arrival does to the port of a tributary member (R53, R73, R74, R80). -/
def Port.hearArrival (a : Arrival) (before after : Supervision) (v : Verdict) (p : Port) : Port :=
  let p := if after.health = before.health then p else p.raise .health
  let p := if before.health = .lost then p.offerNotice (notice .restored a.id .dual) else p
  let p := if after.skew.alarm = before.skew.alarm then p else p.raise .skew
  if v.delivers then p.offerData (decide (a.cls = .urgent)) (a.record v after.health) else p

@[simp] theorem State.tellHealth_get (id : StreamId) (m : Members) (h : Health) (t : Trib) (s : State) :
    (s.tellHealth id m h).ports.get t = if m.tribs.get t then (s.ports.get t).raise .health else s.ports.get t := by
  rw [State.tellHealth_eq, ← State.raiseMembers_get]

@[simp] theorem State.handRecord_get (a : Arrival) (v : Verdict) (h : Health) (m : Members) (t : Trib) (s : State) :
    (s.handRecord a v h m).ports.get t
      = if m.tribs.get t then (s.ports.get t).offerData (decide (a.cls = .urgent)) (a.record v h)
        else s.ports.get t := by
  rw [State.handRecord_eq]
  exact State.offerDataTo_get ..

section
variable {a : Arrival} {s : State} {e : Entry} {sup : Supervision} (he : s.find a.id = some e) (hs : e.sup = some sup)
include he hs

/-- Each tributary member's port hears of the arrival, and no other port (R53). -/
theorem State.arrive_get (t : Trib) :
    (s.arrive a).ports.get t =
      if e.members.tribs.get t then
        (s.ports.get t).hearArrival a sup (sup.arrive s.profile.skewLimit a.seq a.line a.time)
          (sup.window.judge a.seq).verdict
      else s.ports.get t := by
  simp only [State.arrive, he, hs, apply_ite (fun u : State => u.ports.get t), State.tellHealth_get,
    State.offerNoticeTo_get, State.raiseMembers_get, State.handRecord_get]
  cases e.members.tribs.get t
  · simp only [Bool.false_eq_true, if_false, ite_self]
  · simp only [if_true, ite_not]
    rfl

/-- What an arrival leaves of the state: the entry, the ports of its tributary members, and the contact mirror where it
is a member. -/
theorem State.arrive_of_find :
    s.arrive a = { s with
      table := changeEntry a.id (fun e => some (e.arrive s.profile.skewLimit a sup)) s.table
      ports := Quad.ofFn fun t =>
        if e.members.tribs.get t then
          (s.ports.get t).hearArrival a sup (sup.arrive s.profile.skewLimit a.seq a.line a.time)
            (sup.window.judge a.seq).verdict
        else s.ports.get t
      mirror :=
        if e.members.mirror then
          s.mirror.hearArrival a sup.health (sup.arrive s.profile.skewLimit a.seq a.line a.time).health
            (sup.window.judge a.seq).verdict
        else s.mirror } := by
  have hports : (s.arrive a).ports = Quad.ofFn fun t =>
      if e.members.tribs.get t then
        (s.ports.get t).hearArrival a sup (sup.arrive s.profile.skewLimit a.seq a.line a.time)
          (sup.window.judge a.seq).verdict
      else s.ports.get t := Quad.ext_get fun t => by rw [State.arrive_get he hs, Quad.get_ofFn]
  rw [← hports]
  exact State.arrive_eq he hs

end

/-- A gap of 0 is not shown (R52). -/
theorem gap_eq (gap : Nat) : (if 0 < gap then some gap else none) = if gap = 0 then none else some gap := by
  cases gap <;> rfl

/-- The DATA record of a delivered arrival, in the statements' terms (R52). -/
theorem Arrival.record_eq (a : Arrival) (v : Verdict) (h : Health) :
    a.record v h = ⟨.data, a.id, a.seq, .line a.line, decide (v = .late), decide (v = .resync),
      (match v with | .ahead gap => if gap = 0 then none else some gap | _ => none), .supervised h, a.payload⟩ := by
  unfold Arrival.record
  cases v <;> simp only [gap_eq] <;> rfl

/-- What the contact mirror hears of an arrival, in the statements' terms (R75). -/
theorem Mirror.hearArrival_eq (a : Arrival) (before after : Health) (v : Verdict) (m : Mirror) :
    m.hearArrival a before after v =
      let told := if after = before then m else m.hearHealth a.id.bay after
      if v.delivers then told.hearData a.id.bay v a.payload else told := by
  unfold Mirror.hearArrival
  rw [ite_not]

/-- A stream frame of a foreign bay with an entry is forwarded and offered to it (R138, R139). -/
theorem State.takeFrame_offered {x : Line} {f : RingFrame} {s : State} {cls : StreamClass} {e : Entry}
    (hkind : f.kind = .stream cls) (hforeign : f.origin ≠ s.ownBay)
    (he : findEntry ⟨f.origin, f.index⟩ s.table = some e) :
    s.takeFrame x f = (s.forward x f).arrive ⟨⟨f.origin, f.index⟩, cls, f.seq, f.payload, x, s.timeBase⟩ := by
  have hfind : (s.forward x f).find ⟨f.origin, f.index⟩ = some e := by
    rw [State.forward_eq]
    exact he
  unfold State.takeFrame
  simp only [hkind, State.takeStream, if_neg hforeign, State.offerDelivery, hfind]
  rw [State.forward_eq]

/-- Settles O47: the frame is counted and forwarded, and its arrival is `State.arrive_of_find`. -/
theorem foreignArrival : Obligations.ForeignArrival := by
  rintro l bytes s ⟨kind, origin, index, lap, seq, payload⟩ cls e sup hlocked hgood rfl hforeign id he hs
  refine ⟨changeEntry id (fun e => some (e.arrive s.profile.skewLimit ⟨id, cls, seq, payload, l, s.timeBase⟩ sup))
    s.table, ?_, ?_⟩
  · have hset := TableSet.change (f := Entry.arrive s.profile.skewLimit ⟨id, cls, seq, payload, l, s.timeBase⟩ sup)
      (fun _ => rfl) he
    cases l <;> exact hset
  · rw [exec_lineFrame_good hlocked hgood, State.takeFrame_offered rfl (by exact hforeign) (by exact he),
      State.forward_countLine, State.forward_eq, State.arrive_of_find (e := e) (by exact he) hs]
    simp only [Mirror.hearArrival_eq, Port.hearArrival, Arrival.record_eq, forwardQueue_stream]
    by_cases hlap : lap = 0
    · simp only [hlap, if_true]
      rfl
    · simp only [hlap, if_false]
      rfl

end Sys2Proof.Machine
end

section
namespace Sys2Proof.Machine

/-! ### What is found after MIRROR's joins and leavings (R34) -/

/-- The contact stream of a bay is none of those of other bays. -/
theorem contactId_ne_of_notMem {b : Byte} {bays : List Byte} (hb : b ∉ bays) :
    ∀ c ∈ bays, (⟨b, 0⟩ : StreamId) ≠ ⟨c, 0⟩ := fun _ hc => contactId_ne fun h => hb (h ▸ hc)

section
variable {bays : List Byte} {id : StreamId}

/-- The joins of MIRROR leave every other identifier's entry as it was. -/
theorem findEntry_joins_other (hid : ∀ b ∈ bays, id ≠ ⟨b, 0⟩) (p m : Nat) (table : List Entry) :
    findEntry id (bays.foldl (fun table b => joinTable false ⟨b, 0⟩ .mirror p m table) table) = findEntry id table := by
  induction bays generalizing table with
  | nil => rfl
  | cons b rest ih =>
    rw [List.foldl_cons, ih (fun c hc => hid c (by simp [hc])), findEntry_joinTable, if_neg (hid b (by simp))]

/-- Each bay's contact stream is joined once. -/
theorem findEntry_joins_self {b : Byte} (hb : b ∈ bays) (hnodup : bays.Nodup) (p m : Nat) (table : List Entry) :
    findEntry ⟨b, 0⟩ (bays.foldl (fun table b => joinTable false ⟨b, 0⟩ .mirror p m table) table)
      = findEntry ⟨b, 0⟩ (joinTable false ⟨b, 0⟩ .mirror p m table) := by
  induction bays generalizing table with
  | nil => cases hb
  | cons c rest ih =>
    obtain ⟨hc, hrest⟩ := List.nodup_cons.mp hnodup
    rw [List.foldl_cons]
    rcases List.mem_cons.mp hb with rfl | hmem
    · exact findEntry_joins_other (contactId_ne_of_notMem hc) ..
    · have hne := (contactId_ne_of_notMem hc b hmem).symm
      rw [ih hmem hrest, findEntry_joinTable, if_pos rfl, findEntry_joinTable, if_neg hne, findEntry_joinTable, if_pos rfl]

/-- The leavings of MIRROR leave every other identifier's entry as it was. -/
theorem findEntry_leaves_other (hid : ∀ b ∈ bays, id ≠ ⟨b, 0⟩) (table : List Entry) :
    findEntry id (bays.foldl (fun table b => leaveTable ⟨b, 0⟩ .mirror table) table) = findEntry id table := by
  induction bays generalizing table with
  | nil => rfl
  | cons b rest ih =>
    rw [List.foldl_cons, ih (fun c hc => hid c (by simp [hc])), leaveTable,
      findEntry_changeEntry_ne (fun _ _ => Entry.leave_id) _ (hid b (by simp))]

/-- Each bay's contact stream is left once. -/
theorem findEntry_leaves_self {b : Byte} (hb : b ∈ bays) (hnodup : bays.Nodup) {table : List Entry}
    (ho : table.Pairwise fun x y => x.id.key < y.id.key) :
    findEntry ⟨b, 0⟩ (bays.foldl (fun table b => leaveTable ⟨b, 0⟩ .mirror table) table)
      = (findEntry ⟨b, 0⟩ table).bind (Entry.leave .mirror) := by
  have hleave : ∀ e e' : Entry, e.leave .mirror = some e' → e'.id = e.id := fun _ _ => Entry.leave_id
  induction bays generalizing table with
  | nil => cases hb
  | cons c rest ih =>
    obtain ⟨hc, hrest⟩ := List.nodup_cons.mp hnodup
    rw [List.foldl_cons]
    rcases List.mem_cons.mp hb with rfl | hmem
    · rw [findEntry_leaves_other (contactId_ne_of_notMem hc)]
      exact findEntry_changeEntry_self hleave ho
    · have hleft : (leaveTable ⟨c, 0⟩ .mirror table).Pairwise fun x y => x.id.key < y.id.key :=
        changeEntry_ordered hleave ho
      rw [ih hmem hrest hleft, leaveTable,
        findEntry_changeEntry_ne hleave _ (contactId_ne_of_notMem hc b hmem).symm]

end

section
variable {before after : List Byte} {table : List Entry}

/-- A bay that is bound after the request is joined, and not left. -/
theorem findEntry_memberships_bound {b : Byte} (hb : b ∈ after) (hnodup : after.Nodup) (refresh : Nat) :
    findEntry ⟨b, 0⟩ (mirrorMemberships before after refresh table)
      = findEntry ⟨b, 0⟩ (joinTable false ⟨b, 0⟩ .mirror (1000 * refresh) 3 table) := by
  unfold mirrorMemberships
  have hstays : b ∉ newlyBound after before := fun h => (mem_newlyBound.mp h).2 hb
  rw [findEntry_leaves_other (contactId_ne_of_notMem hstays), findEntry_joins_self hb hnodup]

/-- A bay that is no longer bound is left, and not joined. -/
theorem findEntry_memberships_unbound {ownBay : Byte} {publish : Prop}
    (h : MirrorTable ownBay (· ∈ before) publish table) (hforeign : ∀ b ∈ after, b ≠ ownBay) {b : Byte}
    (hb : b ∈ before) (hgone : b ∉ after) (hnodup : before.Nodup) (refresh : Nat) :
    findEntry ⟨b, 0⟩ (mirrorMemberships before after refresh table)
      = (findEntry ⟨b, 0⟩ table).bind (Entry.leave .mirror) := by
  unfold mirrorMemberships
  rw [findEntry_leaves_self (mem_newlyBound.mpr ⟨hb, hgone⟩) (hnodup.filter _)
    (h.joins hforeign (1000 * refresh) 3).ordered,
    findEntry_joins_other (contactId_ne_of_notMem hgone)]

/-- Every other identifier's entry is as it was. -/
theorem findEntry_memberships_other {id : StreamId} (hid : id.index = 0 → id.bay ∉ after ∧ id.bay ∉ before)
    (refresh : Nat) : findEntry id (mirrorMemberships before after refresh table) = findEntry id table := by
  unfold mirrorMemberships
  rw [findEntry_leaves_other, findEntry_joins_other]
  · rintro b hb rfl
    exact (hid rfl).1 hb
  · rintro b hb rfl
    exact (hid rfl).2 (mem_newlyBound.mp hb).1

end

/-- Publishing changes no identifier's entry but that of the own contact stream (R33). -/
theorem findEntry_publishing_other {ownBay : Byte} {id : StreamId} (hid : id ≠ ⟨ownBay, 0⟩) {before : Bool}
    {table : List Entry} (hnew : before = false → findEntry ⟨ownBay, 0⟩ table = none) (after : Bool) :
    findEntry id (mirrorPublishing ⟨ownBay, 0⟩ before after table) = findEntry id table := by
  cases before <;> cases after
  · rfl
  · rw [findEntry_publishingOn (hnew rfl), if_neg hid]
  · rw [mirrorPublishing, findEntry_changeEntry_ne (fun _ _ => Entry.unpublish_id) _ hid]
  · rfl

/-- The own contact stream's entry after publishing is turned on or off, or left as it is (R33). -/
theorem findEntry_publishing_own {ownBay : Byte} {bound : Byte → Prop} {before : Bool} {table : List Entry}
    (h : MirrorTable ownBay bound (before = true) table) (hown : ¬ bound ownBay) (after : Bool) :
    findEntry ⟨ownBay, 0⟩ (mirrorPublishing ⟨ownBay, 0⟩ before after table) =
      if after = false then none else if before then findEntry ⟨ownBay, 0⟩ table
      else some (Entry.make ⟨ownBay, 0⟩ .urgent (some ⟨.mirror, .active, 0⟩) Members.empty none) := by
  cases after
  · have hcontact := (h.publishing hown false).contact
    rw [if_pos rfl]
    simpa using hcontact
  · cases before
    · have hnew : findEntry ⟨ownBay, 0⟩ table = none := by simpa using h.contact
      rw [findEntry_publishingOn hnew, if_pos rfl]
      rfl
    · rfl

/-- An entry that MIRROR leaves, which no one publishes (R31, R34). -/
theorem Entry.leave_mirror_eq {e : Entry} (hpub : e.publisher = none) :
    e.leave .mirror =
      if e.members.tribs = ⟨false, false, false, false⟩ then none
      else some { e with members := { e.members with mirror := false } } := by
  have hempty : e.members.put .mirror false = Members.empty ↔ e.members.tribs = ⟨false, false, false, false⟩ := by
    simp [Members.put, Members.empty]
  rw [Entry.leave, Entry.settle_eq]
  simp only [hpub, hempty, true_and]
  split <;> rfl

/-! ### Source records and outputs after a MIRROR (R160, R162) -/

section
variable {α : Type} {le : α → α → Prop} [DecidableRel le] {p : α → Bool} {x : α} {xs : List α}

/-- Placing an item that is not looked for does not change what is found. -/
theorem find?_orderedInsert_of_not (hx : p x = false) : (xs.orderedInsert le x).find? p = xs.find? p := by
  induction xs with
  | nil => simp [hx]
  | cons y rest ih =>
    rw [List.orderedInsert_cons]
    split
    · rw [List.find?_cons, hx]
    · rw [List.find?_cons, List.find?_cons, ih]

/-- An item that is looked for is found when it is placed where there was none. -/
theorem find?_orderedInsert_of_new (hx : p x = true) (hnew : xs.find? p = none) :
    (xs.orderedInsert le x).find? p = some x := by
  induction xs with
  | nil => simp [hx]
  | cons y rest ih =>
    rw [List.find?_cons] at hnew
    rcases hy : p y with _ | _
    · rw [List.orderedInsert_cons]
      split
      · rw [List.find?_cons, hx]
      · rw [List.find?_cons, hy]
        exact ih (by simpa [hy] using hnew)
    · simp [hy] at hnew

end

/-- What is found after a source record of a new bay is placed (R160). -/
theorem findSource_insertSource {r : Source} {sources : List Source} (hnew : findSource r.bay sources = none)
    (b : Byte) : findSource b (insertSource r sources) = if b = r.bay then some r else findSource b sources := by
  unfold findSource insertSource
  split
  case isTrue h =>
    subst h
    exact find?_orderedInsert_of_new (by simp) hnew
  case isFalse h => exact find?_orderedInsert_of_not (by simpa using Ne.symm h)

/-- What is found after the source records of new bays are placed (R160). -/
theorem findSource_inserts {table : List Entry} {bays : List Byte} (hnodup : bays.Nodup) {sources : List Source}
    (hnew : ∀ b ∈ bays, findSource b sources = none) (b : Byte) :
    findSource b (bays.foldl (fun rs b => insertSource ⟨b, entryHealth b table, none⟩ rs) sources) =
      if b ∈ bays then some ⟨b, entryHealth b table, none⟩ else findSource b sources := by
  induction bays generalizing sources with
  | nil => rfl
  | cons c rest ih =>
    obtain ⟨hc, hrest⟩ := List.nodup_cons.mp hnodup
    have hplaced := findSource_insertSource (r := ⟨c, entryHealth c table, none⟩) (hnew c (by simp))
    rw [List.foldl_cons, ih hrest fun x hx => ?_]
    · rw [hplaced]
      by_cases hb : b = c
      · subst hb
        simp [hc]
      · simp [hb]
    · rw [hplaced, if_neg (show x ≠ c from fun h => hc (h ▸ hx))]
      exact hnew x (by simp [hx])

/-- A source record is kept exactly for a bay that stays bound (R160). -/
theorem findSource_filter (after : List Byte) (sources : List Source) (b : Byte) :
    findSource b (sources.filter fun r => decide (r.bay ∈ after)) =
      if b ∈ after then findSource b sources else none := by
  unfold findSource
  rw [List.find?_filter]
  split
  case isTrue hb =>
    congr 1
    funext r
    by_cases hr : r.bay = b <;> simp [hr, hb]
  case isFalse hb =>
    rw [List.find?_eq_none]
    rintro r - hr
    simp only [decide_eq_true_eq] at hr
    exact hb (hr.2 ▸ hr.1)

/-- The source records after a MIRROR request (R160): kept for a bay that stays bound, new for a newly bound one. -/
theorem findSource_mirrorSources {before after : List Byte} (hnodup : after.Nodup) {sources : List Source}
    (hfound : ∀ b, (findSource b sources).isSome = true ↔ b ∈ before) (table : List Entry) (b : Byte) :
    findSource b (mirrorSources before after table sources) =
      if b ∉ after then none else if b ∈ before then findSource b sources else some ⟨b, entryHealth b table, none⟩ := by
  have hnone : ∀ c, c ∉ before → findSource c sources = none := fun c hc => by
    rw [← hfound] at hc
    simpa using hc
  have hnew : (newlyBound before after).Nodup := hnodup.filter _
  unfold mirrorSources
  rw [findSource_inserts hnew fun c hc => ?_]
  · rw [findSource_filter]
    by_cases ha : b ∈ after <;> by_cases hb : b ∈ before <;> simp [mem_newlyBound, ha, hb]
  · rw [findSource_filter, hnone c (mem_newlyBound.mp hc).2, ite_self]

/-- The level of an output after a MIRROR request (R162). -/
theorem mirrorOutputs_level (ownBay : Byte) (f : MirrorFields) (sources : List Source) (outputs : Oct ContactOutput)
    (i : Fin 8) :
    ((mirrorOutputs ownBay f sources outputs).get i).level =
      if newBinding ownBay (f.bindings.get i) (outputs.get i).binding = (outputs.get i).binding then
        (outputs.get i).level
      else boundLevel sources (newBinding ownBay (f.bindings.get i) (outputs.get i).binding) := by
  simp only [mirrorOutputs, Oct.get_ofFn]
  split <;> rfl

end Sys2Proof.Machine
end

section
namespace Sys2Proof.Machine

/-! ### The fields of a MIRROR in the statements' terms (R156, R157, R160, R167) -/

theorem replaced_eq {n : Nat} (field : Option (BitVec n)) (held : Nat) :
    replaced field held = (field.map BitVec.toNat).getD held := by cases field <;> rfl

theorem code_of_policyOfCode {c : Byte} {policy : Policy} (h : policyOfCode c = some policy) : policy.code = c := by
  unfold policyOfCode at h
  split at h <;> cases h
  all_goals
    rename_i hc
    exact (eq_ofNat_of_toNat hc).symm

theorem boolByte_of_levelOfCode {c : Byte} {level : Bool} (h : levelOfCode c = some level) : boolByte level = c := by
  unfold levelOfCode at h
  split at h <;> cases h
  all_goals
    rename_i hc
    exact (eq_ofNat_of_toNat hc).symm

theorem val_of_bitOfCode {c : Byte} {bit : Fin 8} (h : bitOfCode c = some bit) : bit.val = c.toNat := by
  unfold bitOfCode at h
  split at h <;> cases h
  rfl

/-- A binding in range is the one its fields say (R160, R167). -/
theorem bindingOf_eq_some {ownBay : Byte} {g : BindingFields} {b : Binding} (h : bindingOf ownBay g = some b) :
    b.bay = g.bay ∧ b.bit.val = g.bit.toNat ∧ b.policy.code = g.policy ∧ boolByte b.safeLevel = g.safe := by
  unfold bindingOf at h
  split at h
  · simp only [Option.bind_eq_some_iff, Option.map_eq_some_iff] at h
    obtain ⟨bit, hbit, policy, hpolicy, safe, hsafe, rfl⟩ := h
    exact ⟨rfl, val_of_bitOfCode hbit, code_of_policyOfCode hpolicy, boolByte_of_levelOfCode hsafe⟩
  · cases h

/-- A binding that a MIRROR in range names is in range (R169). -/
theorem bindingOf_of_inRange {ownBay : Byte} {f : MirrorFields} (h : mirrorInRange ownBay f = true) {n : Fin 8}
    {g : BindingFields} (hg : f.bindings.get n = some (some g)) : ∃ b, bindingOf ownBay g = some b := by
  rw [← Option.ne_none_iff_exists']
  intro hnone
  have hbad := (bindings_eq_false_iff ownBay f.bindings).mpr ⟨n, g, hg, hnone⟩
  simp [mirrorInRange, hbad] at h

/-- When a MIRROR builds a request frame, in the statements' terms (R157). -/
theorem requestFrameDue_iff (f : MirrorFields) (m : Mirror) :
    requestFrameDue m (m.settings f) = true ↔ publishAfter f m.publish = true
      ∧ (m.publish = false ∨ f.enableMask.getD m.enableMask ≠ m.enableMask
        ∨ f.maskValues.getD m.maskValues ≠ m.maskValues) := by
  simp [requestFrameDue, Mirror.settings, or_assoc]

/-- The changed set is emptied when publishing is turned on (R156). -/
theorem Mirror.settings_changedSet (f : MirrorFields) (m : Mirror) :
    (m.settings f).changedSet =
      if publishAfter f m.publish = true ∧ m.publish = false then 0
      else m.changedSet &&& f.enableMask.getD m.enableMask := by
  simp [Mirror.settings]

/-! ### The table and the source records after a MIRROR (R33, R34, R160) -/

theorem State.mem_boundAfter {f : MirrorFields} {s : State} {b : Byte} :
    b ∈ s.boundAfter f ↔
      ∃ n : Fin 8, ∃ x ∈ newBinding s.ownBay (f.bindings.get n) (s.mirror.outputs.get n).binding, x.bay = b := by
  simp only [State.boundAfter, mem_boundBays, rebound, Oct.get_ofFn, Option.mem_def]

/-- The mirror's settings after a MIRROR (R155, R156, R169). -/
theorem State.mirrored_settings (f : MirrorFields) (s : State) :
    (s.mirrored f).mirror = { s.mirror with
      debounce := replaced f.debounce s.mirror.debounce
      publish := publishAfter f s.mirror.publish
      enableMask := f.enableMask.getD s.mirror.enableMask
      maskValues := f.maskValues.getD s.mirror.maskValues
      refresh := replaced f.refresh s.mirror.refresh
      changedSet := if publishAfter f s.mirror.publish = true ∧ s.mirror.publish = false then 0
        else s.mirror.changedSet &&& f.enableMask.getD s.mirror.enableMask
      refreshTimer := if publishAfter f s.mirror.publish then s.mirror.refreshTimer else none
      outputs := (s.mirrored f).mirror.outputs
      sources := (s.mirrored f).mirror.sources } := by
  rw [← Mirror.settings_changedSet]
  rfl

theorem State.boundAfter_nodup (f : MirrorFields) (s : State) : (s.boundAfter f).Nodup := boundBays_nodup _

section
variable {s : State} (h : StreamsLegal s) (f : MirrorFields)
include h

/-- The memberships of a MIRROR leave a legal table, before publishing turns. -/
theorem StreamsLegal.memberships :
    MirrorTable s.ownBay (· ∈ s.boundAfter f) (s.mirror.publish = true)
      (mirrorMemberships (boundBays s.mirror.outputs) (s.boundAfter f) (s.mirror.settings f).refresh s.table) := by
  obtain ⟨-, htab, -, hbind, -⟩ := (streamsLegal_iff s).mp h
  exact htab.memberships (ne_ownBay_of_bound hbind) (ne_ownBay_of_boundAfter hbind) _

/-- Publishing changes no foreign bay's entry after a MIRROR. -/
theorem State.mirrored_find_other {id : StreamId} (hid : id ≠ ⟨s.ownBay, 0⟩) :
    findEntry id (s.mirrored f).table = findEntry id
      (mirrorMemberships (boundBays s.mirror.outputs) (s.boundAfter f) (s.mirror.settings f).refresh s.table) := by
  have hnew : s.mirror.publish = false → findEntry ⟨s.ownBay, 0⟩
      (mirrorMemberships (boundBays s.mirror.outputs) (s.boundAfter f) (s.mirror.settings f).refresh s.table) = none :=
    fun hoff => by simpa [hoff] using (h.memberships f).contact
  exact findEntry_publishing_other hid hnew _

/-- MIRROR is a member of the contact stream of a bay bound after its request (R34). -/
theorem State.mirrored_find_bound {b : Byte} (hb : b ∈ s.boundAfter f) :
    findEntry ⟨b, 0⟩ (s.mirrored f).table =
      some (match findEntry ⟨b, 0⟩ s.table with
        | some e => e.joined .mirror (1000 * (s.mirror.settings f).refresh) 3
        | none => Entry.make ⟨b, 0⟩ .general none (Members.empty.put .mirror true)
            (some (Supervision.initial (1000 * (s.mirror.settings f).refresh) 3))) := by
  have hforeign := contactId_ne (ne_ownBay_of_boundAfter h.table.bindings b hb)
  rw [State.mirrored_find_other h f hforeign, findEntry_memberships_bound hb (s.boundAfter_nodup f), findEntry_joinTable,
    if_pos rfl]
  rfl

/-- MIRROR is no member of the contact stream of a bay no longer bound (R31, R34). -/
theorem State.mirrored_find_unbound {b : Byte} (hb : b ∈ boundBays s.mirror.outputs) (hgone : b ∉ s.boundAfter f) :
    findEntry ⟨b, 0⟩ (s.mirrored f).table = (findEntry ⟨b, 0⟩ s.table).bind fun e =>
      if e.members.tribs = ⟨false, false, false, false⟩ then none
      else some { e with members := { e.members with mirror := false } } := by
  obtain ⟨-, htab, -, hbind, -⟩ := (streamsLegal_iff s).mp h
  have hforeign := ne_ownBay_of_bound hbind b hb
  rw [State.mirrored_find_other h f (contactId_ne hforeign),
    findEntry_memberships_unbound htab (ne_ownBay_of_boundAfter hbind) hb hgone (boundBays_nodup _)]
  rcases he : findEntry ⟨b, 0⟩ s.table with _ | e
  · rfl
  · have hid := findEntry_id he
    exact Entry.leave_mirror_eq ((htab.entries e (findEntry_mem he)).foreignUnpublished (by rw [hid]; exact hforeign))

/-- The own contact stream's entry after a MIRROR (R33). -/
theorem State.mirrored_find_own :
    findEntry ⟨s.ownBay, 0⟩ (s.mirrored f).table =
      if publishAfter f s.mirror.publish = false then none
      else if s.mirror.publish then findEntry ⟨s.ownBay, 0⟩ s.table
      else some (Entry.make ⟨s.ownBay, 0⟩ .urgent (some ⟨.mirror, .active, 0⟩) Members.empty none) := by
  have hafter : s.ownBay ∉ s.boundAfter f := fun hb => ne_ownBay_of_boundAfter h.table.bindings _ hb rfl
  have hbefore : s.ownBay ∉ boundBays s.mirror.outputs := fun hb => ne_ownBay_of_bound h.table.bindings _ hb rfl
  have hsame := findEntry_memberships_other (id := ⟨s.ownBay, 0⟩) (table := s.table) (fun _ => ⟨hafter, hbefore⟩)
    (s.mirror.settings f).refresh
  rw [← hsame]
  exact findEntry_publishing_own (h.memberships f) hafter _

/-- The source records after a MIRROR (R160). -/
theorem State.mirrored_findSource (b : Byte) :
    findSource b (s.mirrored f).mirror.sources =
      if b ∉ s.boundAfter f then none
      else if b ∈ boundBays s.mirror.outputs then findSource b s.mirror.sources
      else some ⟨b, entryHealth b s.table, none⟩ := by
  obtain ⟨-, htab, hsources, hbind, -⟩ := (streamsLegal_iff s).mp h
  rw [show (s.mirrored f).mirror.sources = mirrorSources (boundBays s.mirror.outputs) (s.boundAfter f)
    (s.mirrored f).table s.mirror.sources from rfl, findSource_mirrorSources (s.boundAfter_nodup f) hsources.found]
  by_cases hb : b ∈ s.boundAfter f
  · rw [State.mirrored_entryHealth htab hbind b hb]
  · rw [if_pos hb, if_pos hb]

end

/-- A MIRROR in range with slots enough is applied, and answered DONE (R169). -/
theorem exec_mirror_applied {t : Trib} {f : MirrorFields} {s : State} {r : Request}
    (hr : s.serving t (.mirror t f) = some r) (hrange : mirrorInRange s.ownBay f = true)
    (hslots : slotsNeeded (boundBays s.mirror.outputs) (s.boundAfter f)
      (publishAfter f s.mirror.publish && !s.mirror.publish) s.table ≤ freeSlots s.table) :
    exec (.mirror t f) s = .next (((s.taken t).applyMirror t f).replied t r .done []) := by
  refine exec_served rfl hr ?_
  show mirrorEffect t f (s.taken t) = _
  have haccepted : ¬ mirrorInRange (s.taken t).ownBay f = false := by
    rw [State.taken, hrange]
    simp
  exact (if_neg haccepted).trans (if_neg (not_lt.mpr hslots))

/-- Settles O34, clause by clause: the bindings, the bound bays, the settings, the source records, the outputs, the
table and the answer. -/
theorem mirrorApplied : Obligations.MirrorApplied := by
  intro t f s r hr hlegal hrange hslots
  obtain ⟨-, -, -, hstreams, -⟩ := (legal_iff s).mp hlegal
  dsimp only
  simp only [← replaced_eq]
  refine ⟨fun n => ⟨fun hn => by rw [hn]; rfl, fun hn => by rw [hn]; rfl, fun g hg => ?_⟩, s.boundAfter f,
    (s.mirrored f).table, (s.mirrored f).mirror, fun b => State.mem_boundAfter, State.mirrored_settings f s,
    State.mirrored_findSource hstreams f, fun n => ⟨mirrorOutputs_binding .., fun hsame => ?_, fun hnew => ?_⟩,
    fun b hb => ?_, fun b hb hgone => State.mirrored_find_unbound hstreams f hb hgone,
    State.mirrored_find_own hstreams f, fun id hown hid => ?_, ?_⟩
  · obtain ⟨b, hb⟩ := bindingOf_of_inRange hrange hg
    rw [hg]
    exact ⟨b, hb, bindingOf_eq_some hb⟩
  · exact (mirrorOutputs_level ..).trans (if_pos hsame)
  · exact (mirrorOutputs_level ..).trans (if_neg hnew)
  · rw [State.mirrored_find_bound hstreams f hb]
    rcases findEntry ⟨b, 0⟩ s.table with _ | e <;> rfl
  · rw [State.mirrored_find_other hstreams f hown]
    exact findEntry_memberships_other hid _
  · have hexec := exec_mirror_applied hr hrange hslots
    rw [State.applyMirror_eq] at hexec
    simp only [requestFrameDue_iff] at hexec
    exact hexec

end Sys2Proof.Machine
end

section
namespace Sys2Proof.Machine

/-! ### The verdicts (R44 to R50, R56) -/

/-- A number that lies ahead of a front, but not past `s`, is as much nearer to `s`. -/
theorem seqDistance_skip {front s : SeqNo} {i : Nat} (h : i ≤ seqDistance front s) :
    seqDistance (front + BitVec.ofNat 16 i) s = seqDistance front s - i := by
  rw [seqDistance_eq] at *
  rw [seqDistance_eq, BitVec.toNat_add, BitVec.toNat_ofNat]
  have := front.isLt
  have := s.isLt
  omega

/-- The numbers after a front and before `s`, in order: those that an arrival of `s` skips (R46). -/
def skippedNumbers (front s : SeqNo) : List SeqNo :=
  (List.range (seqDistance front s - 1)).map fun k => front + BitVec.ofNat 16 (k + 1)

@[simp] theorem skippedNumbers_length (front s : SeqNo) :
    (skippedNumbers front s).length = seqDistance front s - 1 := by simp [skippedNumbers]

@[simp] theorem newMissing_length (s : SeqNo) (d : Nat) : (newMissing s d).length = min (d - 1) 31 := by
  simp [newMissing]

/-- The oldest skipped numbers, which an ahead verdict drops at once, and after them those it keeps (R46). -/
theorem skippedNumbers_eq (front s : SeqNo) :
    skippedNumbers front s = (List.range (seqDistance front s - 32)).map (fun k => front + BitVec.ofNat 16 (k + 1))
      ++ newMissing s (seqDistance front s) := by
  have hcount : seqDistance front s - 1 = (seqDistance front s - 32) + min (seqDistance front s - 1) 31 := by omega
  rw [skippedNumbers, newMissing, hcount, List.range_add, List.map_append, List.map_map, ← hcount]
  refine congrArg _ (List.map_congr_left fun j hj => ?_)
  rw [List.mem_range] at hj
  apply seqDistance_inj (s := s)
  rw [Function.comp_apply, seqDistance_skip (by omega), seqDistance_sub s (by omega)]
  omega

/-- Of the skipped numbers those less than 32 behind `s` are kept (R46). -/
theorem keptMissing_skippedNumbers (front s : SeqNo) :
    keptMissing s (skippedNumbers front s) = newMissing s (seqDistance front s) := by
  have hdropped : keptMissing s
      ((List.range (seqDistance front s - 32)).map fun k => front + BitVec.ofNat 16 (k + 1)) = [] := by
    simp only [keptMissing, List.filter_eq_nil_iff, List.mem_map, List.mem_range, decide_eq_true_eq]
    rintro n ⟨k, hk, rfl⟩
    rw [seqDistance_skip (by omega)]
    omega
  have hkept : keptMissing s (newMissing s (seqDistance front s)) = newMissing s (seqDistance front s) := by
    simp only [keptMissing, List.filter_eq_self, decide_eq_true_eq]
    intro n hn
    have := (mem_newMissing.mp hn).2
    omega
  rw [keptMissing] at hdropped hkept ⊢
  rw [skippedNumbers_eq, List.filter_append, hdropped, hkept, List.nil_append]

/-- The missing list after an ahead verdict is what R46 keeps of the list with the skipped numbers appended. -/
theorem keptMissing_append_skippedNumbers (front s : SeqNo) (missing : List SeqNo) :
    keptMissing s (missing ++ skippedNumbers front s)
      = keptMissing s missing ++ newMissing s (seqDistance front s) := by
  rw [← keptMissing_skippedNumbers]
  exact List.filter_append ..

section
variable {front s : SeqNo} {missing : List SeqNo} {run : Nat}

/-- An arrival of the front's own number (R47). -/
theorem Window.judge_front_again (h : seqDistance front s = 0) :
    (Window.active front missing run).judge s = ⟨.duplicate, .active front missing 0, 0⟩ := if_pos h

/-- An arrival ahead of the front (R46). -/
theorem Window.judge_ahead (hpos : 1 ≤ seqDistance front s) (hahead : seqDistance front s ≤ 32767) :
    (Window.active front missing run).judge s =
      ⟨.ahead (seqDistance front s - 1), .active s (keptMissing s (missing ++ skippedNumbers front s)) 0,
        (missing ++ skippedNumbers front s).length - (keptMissing s (missing ++ skippedNumbers front s)).length⟩ := by
  have hkept : (keptMissing s missing).length ≤ missing.length := List.length_filter_le ..
  have hlost : (missing ++ skippedNumbers front s).length - (keptMissing s (missing ++ skippedNumbers front s)).length
      = missing.length - (keptMissing s missing).length + (seqDistance front s - 32) := by
    rw [keptMissing_append_skippedNumbers, List.length_append, List.length_append, skippedNumbers_length,
      newMissing_length]
    omega
  rw [hlost, keptMissing_append_skippedNumbers]
  exact (if_neg (by omega)).trans (if_pos hahead)

/-- An arrival up to 31 behind the front (R47, R48). -/
theorem Window.judge_behind (hbehind : 32768 ≤ seqDistance front s) (hnear : 65536 - seqDistance front s ≤ 31) :
    (Window.active front missing run).judge s =
      if s ∈ missing then ⟨.late, .active front (missing.erase s) 0, 0⟩
      else ⟨.duplicate, .active front missing 0, 0⟩ :=
  (if_neg (by omega)).trans ((if_neg (by omega)).trans (if_pos hnear))

/-- An arrival further behind the front (R49, R50). -/
theorem Window.judge_far_behind (hbehind : 32768 ≤ seqDistance front s) (hfar : 32 ≤ 65536 - seqDistance front s) :
    (Window.active front missing run).judge s =
      if run < 3 then ⟨.stale, .active front missing (run + 1), 0⟩ else ⟨.resync, .active s [] 0, 0⟩ :=
  (if_neg (by omega)).trans ((if_neg (by omega)).trans (if_neg (by omega)))

end

/-- The verdicts that deliver (R45). -/
theorem Verdict.delivers_eq_false_iff (v : Verdict) : v.delivers = false ↔ v = .duplicate ∨ v = .stale := by
  cases v <;> simp [Verdict.delivers]

/-- Settles O11: the verdicts by where the arrival lies, then the counters verdict by verdict. -/
theorem windowVerdicts : Obligations.WindowVerdicts := by
  refine ⟨fun front s missing run => Window.judge_ahead, ⟨fun s => rfl, fun front s missing run =>
    ⟨Window.judge_front_again, fun hbehind hnear hmem => ?_, fun hbehind hnear hmem => ?_,
      fun hbehind hfar hrun => ?_, fun hbehind hfar hrun => ?_⟩, Verdict.delivers_eq_false_iff⟩,
    fun c v lost => by cases v <;> rfl⟩
  · rw [Window.judge_behind hbehind hnear, if_pos hmem]
  · rw [Window.judge_behind hbehind hnear, if_neg hmem]
  · rw [Window.judge_far_behind hbehind hfar, if_pos hrun]
  · rw [Window.judge_far_behind hbehind hfar, if_neg (by omega)]

end Sys2Proof.Machine
end

section
namespace Sys2Proof.Machine

/-! ### The fields of a snapshot (R170) -/

/-- A yes or no, in the statements' terms (R170). -/
theorem boolByte_eq_ite (b : Bool) : boolByte b = if b then 1 else 0 := rfl

/-- `be16_eq` for a list of numbers. -/
theorem be16_eq_twoBytes : be16 = twoBytes := funext be16_eq

/-- The time remaining, in the statements' terms (R170). -/
theorem remaining_eq_elim (now : Time) (timer : Option Time) :
    remaining now timer = timer.elim [0] fun due => 1 :: fourBytes (due - now) := by
  cases timer
  · rfl
  · exact congrArg (List.cons 1) (be32_eq _)

/-- A counted list as the count and the concatenation of its items' bytes. -/
theorem counted_eq_flatten {α : Type} (enc : α → List Byte) (xs : List α) :
    counted enc xs = BitVec.ofNat 8 (xs.map enc).length :: (xs.map enc).flatten := by
  rw [counted, List.length_map, List.flatMap_def]

theorem Oct.toList_eq_map_get {α : Type} (o : Oct α) : o.toList = (List.finRange 8).map o.get := rfl

theorem State.isOpen_eq_decide (s : State) (l : Line) : s.isOpen l = decide ((s.receivers.get l).state = .locked) := rfl

theorem State.bayValid_eq_decide (s : State) : s.bayValid = decide (s.ownBay ≠ 0 ∧ s.ownBay ≠ 255) := by
  rw [Bool.eq_iff_iff, decide_eq_true_iff]
  exact validBay_iff s.ownBay

/-- The claim of Tn that an entry holds, listed with the sequence counter of its publisher (R103). -/
theorem claimBytes_of_publisher {t : Trib} {e : Entry} {pub : Publisher} (h : e.publisher = some pub) :
    (if e.publishedBy (.trib t) then some (claimBytes e) else none) =
      if pub.holder = .trib t then some ([e.id.index, e.cls.code] ++ twoBytes pub.seq) else none := by
  simp [Entry.publishedBy, claimBytes, h, be16_eq]

/-- The claims of Tn are listed entry by entry (R103). -/
theorem map_claimBytes_filter (t : Trib) (table : List Entry) :
    (table.filter fun e => e.publishedBy (.trib t)).map claimBytes =
      table.filterMap fun e => if e.publishedBy (.trib t) then some (claimBytes e) else none := by
  rw [← List.filterMap_eq_map, List.filterMap_filter]
  rfl

/-- A roster record, for the bytes `part` of one part of it (R154). -/
theorem recordBytes_eq {now : Time} {part : Option RosterPart → List Byte}
    (h : ∀ p, optionBytes (partBytes now) p = part p) (rec : RosterRecord) :
    recordBytes now rec = rec.bay :: part rec.parts.a ++ part rec.parts.b := by
  rw [recordBytes, h, h]
  rfl

/-- Bits 0 to 3 of a subscriber set stand for T0 to T3 (R170). -/
theorem Members.bits_trib (m : Members) (t : Trib) : m.bits.getLsbD t.toNat = m.tribs.get t := by
  cases t
  · exact Oct.getLsbD_bits _ 0
  · exact Oct.getLsbD_bits _ 1
  · exact Oct.getLsbD_bits _ 2
  · exact Oct.getLsbD_bits _ 3

/-- Bits 5 to 7 of a subscriber set are clear (R170). -/
theorem Members.bits_lt (m : Members) : m.bits.toNat < 32 := by
  obtain ⟨⟨t0, t1, t2, t3⟩, mirror⟩ := m
  revert t0 t1 t2 t3 mirror
  decide

/-- What the snapshot of every entry begins with (R61): identity, class, publisher, members and intakes. -/
def entryBytes (e : Entry) : List Byte :=
  [e.id.bay, e.id.index, e.cls.code] ++ optionBytes (fun p => [p.holder.code, p.state.code]) e.publisher
    ++ optionBytes (fun p => be16 p.seq) e.publisher ++ [e.members.bits] ++ be16 e.counters.intakes

/-- The snapshot of an own-bay entry ends with health LOCAL (R170). -/
theorem streamSnapshot_local {e : Entry} (h : e.sup = none) (now : Time) :
    streamSnapshot now e = entryBytes e ++ [5] := by
  rw [streamSnapshot, h]
  rfl

/-- The snapshot of a foreign entry goes on with the window, health and skew fields (R170). -/
theorem streamSnapshot_supervised {e : Entry} {sup : Supervision} (h : e.sup = some sup) (now : Time) :
    streamSnapshot now e =
      entryBytes e ++ (windowBytes sup.window e.counters ++ supervisionBytes now sup e.counters) := by
  rw [streamSnapshot, h]
  rfl

/-- Settles O60, snapshot by snapshot: what the statement names is matched to the model's block, then the fields are
set side by side; the codes are evaluated. -/
theorem snapshotContents : Obligations.SnapshotContents := by
  refine ⟨fun now e => ?_, fun s l => ?_, fun now pickA pickB r => ?_, fun s t => ?_, fun s => ?_, fun now m => ?_,
    fun m => ⟨m.bits_trib, Oct.getLsbD_bits _ 4, m.bits_lt⟩,
    rfl, rfl, rfl, rfl, rfl, rfl, rfl, rfl, rfl, rfl, rfl⟩
  · -- READ STREAM
    intro c opening
    have hopening : entryBytes e = opening := by
      simp only [entryBytes, opening]
      cases e.publisher <;> simp [optionBytes, be16_eq, c]
    refine ⟨fun hlocal => by rw [streamSnapshot_local hlocal, hopening], fun sup hsup => ?_⟩
    rw [streamSnapshot_supervised hsup, hopening]
    cases sup.window <;> cases he8 : sup.skew.e8 <;> cases hprobe : sup.skew.probe <;>
      simp [windowBytes, supervisionBytes, remaining_eq_elim, boolByte, optionBytes, counted, be16_eq_twoBytes,
        beSigned_two, beSigned_three, beBytes_eq_threeBytes, beBytes_eq_fourBytes, he8, hprobe, c]
  · -- READ LINE
    cases hquality : (s.receivers.get l).qualityTimer <;> cases hinFlight : (s.egresses.get l).inFlight <;>
      simp [State.lineSnapshot, receiverBytes, egressBytes, PerQueue.toList, State.isOpen_eq_decide,
        remaining_eq_elim, boolByte, optionBytes, be16_eq_twoBytes, be32_eq, hquality, hinFlight]
  · -- READ RING
    intro k direction readings part
    have hdirection : ∀ y, directionBytes y r = direction y := fun y => by
      simp only [directionBytes, direction]
      cases r.measured.get y <;> cases r.lastReturn.get y <;> simp [optionBytes, be32_eq]
    have hreadings : ∀ x pick, readingBytes x pick r.roster = readings x pick := fun x pick => by
      simp only [readingBytes, readings]
      cases farthest x pick r.roster <;> simp [optionBytes, counted]
    have hpart : ∀ p, optionBytes (partBytes now) p = part p := fun p => by
      cases p <;> simp [optionBytes, partBytes, part, be32_eq]
    simp [ringSnapshot, hdirection, hreadings, funext (recordBytes_eq hpart), counted, be16_eq_twoBytes, k]
  · -- READ TRIBUTARY
    intro p k claims joined
    have hclaims : (s.table.filter fun e => e.publishedBy (.trib t)).map claimBytes = claims := by
      refine (map_claimBytes_filter t s.table).trans (List.filterMap_congr fun e _ => ?_)
      cases hpub : e.publisher with
      | none => simp [Entry.publishedBy, hpub]
      | some pub => exact claimBytes_of_publisher hpub
    rw [State.portSnapshot, counted_eq_flatten claimBytes, hclaims]
    simp [PortCounters.bytes, counted, be16_eq_twoBytes, beBytes_eq_twoBytes, boolByte, Members.has, p, k, joined]
  · -- READ PROFILE
    simp [State.profileSnapshot, counted, beBytes_eq_twoBytes, State.bayValid_eq_decide, boolByte, List.map_eq_flatMap]
  · -- READ MIRROR
    simp only [mirrorSnapshot, counted, remaining_eq_elim, be16_eq_twoBytes, beBytes_eq_twoBytes, boolByte_eq_ite,
      Oct.toList_eq_map_get, List.flatMap_map, List.flatMap_cons, List.flatMap_nil, List.append_assoc,
      List.cons_append, List.nil_append, List.append_nil]
    -- The fields are alike but for one output's bytes and one source's.
    congr! with n x
    · cases (m.outputs.get n).binding <;> simp [optionBytes, Binding.bytes, boolByte]
    · cases hdata : x.data <;> simp [Source.bytes, optionBytes, hdata]

end Sys2Proof.Machine
end

section
namespace Sys2Proof.Machine

/-! ### Skew samples and the alarm (R77 to R80) -/

/-- Rounding toward zero of an accumulator that is not negative (R79). -/
theorem reportedSkew_of_nonneg {e : Int} (h : 0 ≤ e) : reportedSkew e = e / 8 := Int.tdiv_eq_ediv_of_nonneg h

/-- Rounding toward zero of an accumulator that is not positive (R79). -/
theorem reportedSkew_of_nonpos {e : Int} (h : e ≤ 0) : reportedSkew e = -((-e) / 8) := by
  rw [← Int.tdiv_eq_ediv_of_nonneg (neg_nonneg.mpr h), Int.neg_tdiv, neg_neg]
  rfl

/-- An accumulator within its range shows a skew within the clamp (R79). -/
theorem reportedSkew_bounds {e : Int} (hlow : -131064 ≤ e) (hhigh : e ≤ 131064) :
    -16383 ≤ reportedSkew e ∧ reportedSkew e ≤ 16383 := by
  rcases le_total 0 e with h | h
  · rw [reportedSkew_of_nonneg h]
    omega
  · rw [reportedSkew_of_nonpos h]
    omega

/-- Settles O12: the division of `accumulate` is the floor, and its bounds are those of `accumulate_bounds`. -/
theorem skewAccumulator : Obligations.SkewAccumulator := by
  intro e8 s hlow hhigh he8
  obtain ⟨hmin, hmax⟩ := accumulate_bounds he8 ⟨hlow, hhigh⟩
  obtain ⟨hshownMin, hshownMax⟩ := reportedSkew_bounds hmin hmax
  refine ⟨fun hunset => ?_, fun e he => ⟨e / 8, by omega, by omega, ?_⟩, hmin, hmax,
    fun e _ => ⟨reportedSkew_of_nonneg, reportedSkew_of_nonpos⟩, hshownMin, hshownMax⟩
  · rw [hunset]
    rfl
  · rw [Option.mem_def.mp he]
    rfl

/-- The clamp by its three cases (R78). -/
theorem clampSample_eq (i : Int) :
    clampSample i = if 16383 < i then 16383 else if i < -16383 then -16383 else i := by
  unfold clampSample
  split_ifs <;> omega

/-- The sample of a duplicate on line X against a probe on the other line: line B's time less line A's (R78). -/
theorem Probe.sample_of_line_ne {pr : Probe} {x : Line} (h : pr.line ≠ x) (now : Time) :
    pr.sample now = clampSample (if x = .b then (now - pr.time).toInt else (pr.time - now).toInt) := by
  unfold Probe.sample
  rw [Line.eq_other_of_ne h]
  cases x <;> rfl

/-- The alarm of a set accumulator (R80). -/
theorem alarmOf_some (limit : Nat) (e : Int) :
    alarmOf limit (some e) = decide (limit ≠ 0 ∧ (limit : Int) < |reportedSkew e|) := by
  have hexceeds : limit < (reportedSkew e).natAbs ↔ (limit : Int) < |reportedSkew e| := by
    rw [Int.abs_eq_natAbs, Nat.cast_lt]
  have hset : (limit != 0) = decide (limit ≠ 0) := by cases limit <;> rfl
  rw [alarmOf, hset, decide_eq_decide.mpr hexceeds, Bool.decide_and]

/-- A duplicate of the probe's number on the other line takes a sample (R78, R80). -/
theorem Skew.arrive_of_sample {sk : Skew} {pr : Probe} {s : SeqNo} {x : Line} (hprobe : sk.probe = some pr)
    (hseq : pr.seq = s) (hline : pr.line ≠ x) (limit : Nat) (now : Time) :
    sk.arrive limit .duplicate s x now =
      ⟨some (accumulate sk.e8 (pr.sample now)), none, alarmOf limit (some (accumulate sk.e8 (pr.sample now)))⟩ := by
  simp only [Skew.arrive, hprobe, if_pos (And.intro hseq hline)]
  rfl

/-- Any other duplicate leaves the skew record as it is (R78). -/
theorem Skew.arrive_of_no_sample {sk : Skew} {s : SeqNo} {x : Line}
    (h : ∀ pr ∈ sk.probe, pr.seq = s → pr.line = x) (limit : Nat) (now : Time) :
    sk.arrive limit .duplicate s x now = sk := by
  unfold Skew.arrive
  rcases hprobe : sk.probe with _ | pr
  · rfl
  · exact if_neg fun hc => hc.2 (h pr hprobe hc.1)

/-- Settles O13, verdict by verdict. -/
theorem skewSample : Obligations.SkewSample := by
  intro limit v s x now sk
  refine ⟨?_, fun pr hprobe hv hseq hline => ?_, ?_⟩
  · rintro (rfl | rfl | ⟨gap, rfl⟩) <;> rfl
  · dsimp only
    rw [hv, Skew.arrive_of_sample hprobe hseq hline, Probe.sample_of_line_ne hline, clampSample_eq, alarmOf_some]
  · rintro (rfl | rfl | ⟨rfl, hother⟩)
    · rfl
    · rfl
    · exact Skew.arrive_of_no_sample hother limit now

end Sys2Proof.Machine
end

section
namespace Sys2Proof.Machine

/-! ### Health at an arrival and at an expiry of a silence timer (R63 to R69) -/

/-- The health of a stream that is heard on one line alone (R63). -/
def Line.single : Line → Health
  | .a => .singleA
  | .b => .singleB

theorem Line.single_other (l : Line) : Line.single l.other = match l with | .a => .singleB | .b => .singleA := by
  cases l <;> rfl

theorem Line.single_ne_lost (l : Line) : Line.single l ≠ .lost := by cases l <;> decide

/-- What an arrival on line X does to the health record (R65): a first arrival, the restart of a timer, or the recovery
of the line. -/
theorem Supervision.hear_cases (x : Line) (t : Time) (sup : Supervision) :
    ((sup.health = .waiting ∨ sup.health = .lost) ∧ sup.hear x t = sup.firstArrival t) ∨
    ((sup.health = .dual ∨ sup.health = Line.single x) ∧ sup.hear x t = sup.restart x t) ∨
    (sup.health = Line.single x.other ∧ sup.hear x t = sup.recover x t) := by
  unfold Supervision.hear
  cases sup.health <;> cases x <;> simp [Line.single, Line.other]

/-- The timer of the arrival's line is due one silence time after it (R65 to R67). -/
theorem Supervision.hear_silence_self (x : Line) (t : Time) (sup : Supervision) :
    (sup.hear x t).silence.get x = some (sup.due t) := by
  rcases sup.hear_cases x t with ⟨-, h⟩ | ⟨-, h⟩ | ⟨-, h⟩ <;> rw [h]
  · cases x <;> rfl
  · exact Pair.get_set_self ..
  · exact Pair.get_set_self ..

/-- A first arrival makes both lines live, with both timers started (R66). -/
theorem Supervision.hear_first {sup : Supervision} (hfirst : sup.health = .waiting ∨ sup.health = .lost) (x y : Line)
    (t : Time) : (sup.hear x t).live.get y = true ∧ (sup.hear x t).silence.get y = some (sup.due t) := by
  have h : sup.hear x t = sup.firstArrival t := by
    unfold Supervision.hear
    rcases hfirst with h | h <;> rw [h]
  rw [h]
  cases y <;> exact ⟨rfl, rfl⟩

/-- An arrival that is not a first one leaves the other line's flag and timer alone (R65, R67). -/
theorem Supervision.hear_other {sup : Supervision} (hw : sup.health ≠ .waiting) (hl : sup.health ≠ .lost) (x : Line)
    (t : Time) :
    (sup.hear x t).live.get x.other = sup.live.get x.other
      ∧ (sup.hear x t).silence.get x.other = sup.silence.get x.other := by
  rcases sup.hear_cases x t with ⟨hfirst, -⟩ | ⟨-, h⟩ | ⟨-, h⟩
  · exact absurd hfirst (not_or.mpr ⟨hw, hl⟩)
  · rw [h]
    exact ⟨rfl, Pair.get_set_other ..⟩
  · rw [h]
    exact ⟨Pair.get_set_other .., Pair.get_set_other ..⟩

/-- The health after an arrival: SINGLE of its line where it was, and DUAL otherwise (R65 to R67). -/
theorem Supervision.hear_health_eq (x : Line) (t : Time) (sup : Supervision) :
    (sup.hear x t).health = if sup.health = Line.single x then Line.single x else .dual := by
  have hdual : ∀ y, Health.dual ≠ Line.single y := fun y => by cases y <;> decide
  have hother : Line.single x.other ≠ Line.single x := by cases x <;> decide
  rcases sup.hear_cases x t with ⟨hfirst, h⟩ | ⟨hheld, h⟩ | ⟨hsingle, h⟩ <;> rw [h]
  · refine (if_neg fun hown => ?_).symm
    rw [hown] at hfirst
    cases x <;> simp [Line.single] at hfirst
  · rcases hheld with hheld | hheld
    · rw [hheld, if_neg (hdual x)]
      exact hheld
    · rw [if_pos hheld]
      exact hheld
  · rw [hsingle, if_neg hother]
    rfl

/-- An arrival's work on the health record changes the live flags, the timers and the health. -/
theorem Supervision.hear_eq (x : Line) (t : Time) (sup : Supervision) :
    sup.hear x t = { sup with
      live := (sup.hear x t).live, silence := (sup.hear x t).silence, health := (sup.hear x t).health } := by
  rcases sup.hear_cases x t with ⟨-, h⟩ | ⟨-, h⟩ | ⟨-, h⟩ <;> rw [h] <;> rfl

/-- Settles O14: the arrival's line is live because its timer runs (`Supervision.hear_timers`). -/
theorem healthAtArrival : Obligations.HealthAtArrival := by
  intro sup x t hlegal
  obtain ⟨htimers, hhealth⟩ := Supervision.hear_timers hlegal x t
  have hself := sup.hear_silence_self x t
  refine ⟨?_, hself, fun hfirst => Supervision.hear_first hfirst x x.other t,
    fun hw hl => Supervision.hear_other hw hl x t, ?_, hhealth, sup.hear_eq x t⟩
  · rw [← htimers x, hself]
    rfl
  · have hown := sup.hear_health_eq x t
    cases x <;> exact hown

/-- The health when line X falls silent, by the live flag of the other line (R63, R68, R69). -/
theorem healthOf_set_false (live : Pair Bool) (x : Line) :
    healthOf (live.set x false) = if live.get x.other then Line.single x.other else .lost := by
  obtain ⟨a, b⟩ := live
  cases x
  · cases b <;> rfl
  · cases a <;> rfl

/-- The expiry of silence timer X with the other line live (R68). -/
theorem Supervision.expire_of_live {sup : Supervision} {x : Line} (h : sup.live.get x.other = true) :
    sup.expire x = { sup with
      live := sup.live.set x false, silence := sup.silence.set x none, health := Line.single x.other } := by
  have hhealth : healthOf (sup.live.set x false) = Line.single x.other := by rw [healthOf_set_false, if_pos h]
  simp only [Supervision.expire, hhealth, if_neg (Line.single_ne_lost _)]

/-- The expiry of silence timer X with the other line silent: the entry into LOST (R69, R81). -/
theorem Supervision.expire_of_silent {sup : Supervision} {x : Line} (h : sup.live.get x.other = false) :
    sup.expire x = { sup with
      live := sup.live.set x false, silence := ⟨none, none⟩, health := .lost, window := .empty
      skew := Skew.unset } := by
  have hhealth : healthOf (sup.live.set x false) = .lost := by simp [healthOf_set_false, h]
  simp only [Supervision.expire, hhealth, if_true]

/-- What an expiry that leaves a line live does to the state: the records, a HEALTH report to each tributary member, and
the mirror told (R74, R75). -/
theorem State.silenceExpire_of_heard {id : StreamId} {x : Line} {e : Entry} {sup : Supervision}
    (h : (sup.expire x).health ≠ .lost) (s : State) :
    s.silenceExpire id x e sup = { s with
      table := changeEntry id (fun e => some { e with sup := some (sup.expire x) }) s.table
      ports := Quad.ofFn fun t => if e.members.tribs.get t then (s.ports.get t).raise .health else s.ports.get t
      mirror := if e.members.mirror then s.mirror.hearHealth id.bay (sup.expire x).health else s.mirror } := by
  simp only [State.silenceExpire, if_neg h, State.tellHealth_eq]
  rfl

/-- What the entry into LOST does to the state: the records, the reports and the notice to each tributary member in
their order, and the mirror told (R73 to R75, R81). -/
theorem State.silenceExpire_of_lost {id : StreamId} {x : Line} {e : Entry} {sup : Supervision}
    (h : (sup.expire x).health = .lost) (s : State) :
    s.silenceExpire id x e sup = { s with
      table := changeEntry id (fun e => some { e with sup := some (sup.expire x) }) s.table
      ports := Quad.ofFn fun t =>
        if e.members.tribs.get t then
          ((if sup.skew.alarm then (s.ports.get t).raise .skew else s.ports.get t).offerNotice
            (notice .lost id .lost)).raise .health
        else s.ports.get t
      mirror := if e.members.mirror then s.mirror.hearLost id.bay else s.mirror } := by
  have hget : ∀ t, (s.silenceExpire id x e sup).ports.get t =
      if e.members.tribs.get t then
        ((if sup.skew.alarm then (s.ports.get t).raise .skew else s.ports.get t).offerNotice
          (notice .lost id .lost)).raise .health
      else s.ports.get t := fun t => by
    simp only [State.silenceExpire, if_pos h, apply_ite (fun u : State => u.ports.get t), State.raiseMembers_get,
      State.offerNoticeTo_get]
    cases e.members.tribs.get t <;> simp
  rw [State.silenceExpire_eq, if_pos h]
  congr 1
  exact Quad.ext_get fun t => by rw [hget, Quad.get_ofFn]

/-- A stopped silence timer, or one of no supervised entry, does not expire (log 3). -/
theorem exec_silenceTimer_stopped {s : State} {bay index : Byte} {l : Line}
    (h : ∀ e ∈ s.find ⟨bay, index⟩, ∀ sup ∈ e.sup, sup.silence.get l = none) :
    exec (.silenceTimerExpiry bay index l) s = .next s := by
  show execSilenceTimerExpiry bay index l s = _
  unfold execSilenceTimerExpiry
  split
  case h_1 e he =>
    split
    case h_1 sup hs => simp only [h e he sup hs]
    case h_2 => rfl
  case h_2 => rfl

/-- A running silence timer expires at the reading it brings (R68). -/
theorem exec_silenceTimer_running {s : State} {bay index : Byte} {l : Line} {e : Entry} {sup : Supervision} {due : Time}
    (he : s.find ⟨bay, index⟩ = some e) (hs : e.sup = some sup) (hdue : sup.silence.get l = some due) :
    exec (.silenceTimerExpiry bay index l) s = .next ((s.advanceTo due).silenceExpire ⟨bay, index⟩ l e sup) := by
  show execSilenceTimerExpiry bay index l s = _
  simp only [execSilenceTimerExpiry, he, hs, hdue]

/-- Settles O15, by the live flag of the other line. -/
theorem silenceExpiry : Obligations.SilenceExpiry := by
  refine ⟨fun s bay index l => exec_silenceTimer_stopped, fun s bay index l e sup due he hs hdue => ?_⟩
  have hset := TableSet.change (f := fun e : Entry => { e with sup := some (sup.expire l) }) (fun _ => rfl) he
  have hexec := exec_silenceTimer_running he hs hdue
  constructor
  · intro hlive
    have hheard : (sup.expire l).health ≠ .lost := by
      rw [Supervision.expire_of_live hlive]
      exact Line.single_ne_lost _
    rw [State.silenceExpire_of_heard hheard] at hexec
    rw [Supervision.expire_of_live hlive, Line.single_other] at hset hexec
    simp only [State.advanceTo_table, State.advanceTo_ports, State.advanceTo_mirror] at hexec
    exact ⟨_, hset, hexec⟩
  · intro hsilent
    have hlost : (sup.expire l).health = .lost := by rw [Supervision.expire_of_silent hsilent]
    rw [State.silenceExpire_of_lost hlost] at hexec
    rw [Supervision.expire_of_silent hsilent] at hset hexec
    simp only [State.advanceTo_table, State.advanceTo_ports, State.advanceTo_mirror] at hexec
    exact ⟨_, hset, hexec⟩

end Sys2Proof.Machine
end

section
namespace Sys2Proof.Machine

/-! ### SETUP in the statements' terms (R80, R110, R128, R168) -/

/-- The codes of a service list in range name its positions one by one (R128, R168). -/
theorem serviceListOf_of_valid {codes : List Byte} (h : validServiceList codes = true) :
    serviceListOf codes = some (codes.filterMap normalQueueOfCode) := by
  rcases hlist : serviceListOf codes with _ | list
  · simp [validServiceList, hlist] at h
  · have hnames : normalQueueOfCode ∘ NormalQueue.code = some := funext normalQueueOfCode_code
    rw [← serviceListOf_eq_some_iff.mp hlist, List.filterMap_map, hnames, List.filterMap_some]

/-- The service list after a SETUP in range (R168). -/
theorem serviceList_applied {f : SetupFields} (h : setupInRange f = true) (held : List NormalQueue) :
    (f.serviceList.bind serviceListOf).getD held =
      (f.serviceList.map fun codes => codes.filterMap normalQueueOfCode).getD held := by
  rcases hcodes : f.serviceList with _ | codes
  · rfl
  · have hvalid : validServiceList codes = true := by
      simp only [setupInRange, hcodes, Bool.and_eq_true] at h
      obtain ⟨⟨⟨⟨⟨⟨⟨⟨-, hlist⟩, -⟩, -⟩, -⟩, -⟩, -⟩, -⟩, -⟩ := h
      exact hlist
    rw [Option.bind_some, serviceListOf_of_valid hvalid, Option.map_some]

/-- The effects of a SETUP on an egress, by what the request names (R128). -/
theorem Egress.setup_eq (f : SetupFields) (e : Egress) :
    e.setup f.serviceList.isSome (f.urgentBurst.map BitVec.toNat) = { e with
      position := if f.serviceList = none then e.position else 0
      credit := match f.urgentBurst with | some u => min e.credit u.toNat | none => e.credit } := by
  unfold Egress.setup
  cases f.serviceList <;> cases f.urgentBurst <;> rfl

/-- Whom a new skew limit makes a SKEW report for: the tributary members of an entry whose alarm changes (R80). -/
theorem skewChangeMembers_eq (limit : Nat) (table : List Entry) (u : Trib) :
    skewChangeMembers limit table u = table.any fun e => e.members.tribs.get u && match e.sup with
      | some sup => alarmOf limit sup.skew.e8 != sup.skew.alarm
      | none => false := by
  unfold skewChangeMembers
  congr 1
  funext e
  rw [Bool.and_comm]
  congr 1
  unfold Entry.skewAlarm Entry.evaluateSkew
  cases e.sup <;> rfl

/-- The ports after a SETUP is applied: SKEW to the tributary where an alarm of one of its streams changes, then PROFILE
but to the requester (R80, R168). -/
theorem State.applySetup_ports_eq (t : Trib) (f : SetupFields) (s : State) :
    (s.applySetup t f).ports = Quad.ofFn fun u =>
      let limit := (applyFields f s.profile).skewLimit
      let p := s.ports.get u
      let p := if decide (limit ≠ s.profile.skewLimit) && skewChangeMembers limit s.table u then p.raise .skew else p
      if u = t then p else p.raise .profile := by
  refine Quad.ext_get fun u => ?_
  rw [Quad.get_ofFn]
  unfold State.applySetup
  simp only [State.floorIf_eq, State.raiseProfile_get, State.evaluateSkews]
  by_cases hlimit : (applyFields f s.profile).skewLimit ≠ s.profile.skewLimit
  · simp only [if_pos hlimit, State.changePorts_get, decide_eq_true hlimit, Bool.true_and]
  · simp only [if_neg hlimit, decide_eq_false hlimit, Bool.false_and, Bool.false_eq_true, if_false]

/-- Settles O33: the fields of `State.applySetup_eq`, each by the rule of its block. -/
theorem setupApplied : Obligations.SetupApplied := by
  intro t f s r hr hrange
  dsimp only
  simp only [← replaced_eq, ← serviceList_applied hrange]
  refine exec_served rfl hr ?_
  show setupEffect t f (s.taken t) = _
  rw [setupEffect, if_pos hrange, State.applySetup_eq, State.applySetup_ports_eq]
  simp only [Pair.map, Egress.setup_eq, skewChangeMembers_eq, decide_eq_true_eq]
  rfl

end Sys2Proof.Machine
end

section
namespace Sys2Proof.Machine

/-! ### What the contact mirror does with what it is told (R75, R161) -/

/-- What is found after the source record of a bay is changed, the bay kept. -/
theorem findSource_changeSource_eq_map {bay : Byte} {g : Source → Source} (hg : ∀ r, (g r).bay = r.bay)
    (sources : List Source) (b : Byte) :
    findSource b (changeSource bay g sources) = (findSource b sources).map fun r => if b = bay then g r else r := by
  rw [findSource_changeSource hg]
  by_cases hb : b = bay
  · simp only [if_pos hb]
  · simp only [if_neg hb, Option.map_id']

/-- The mirror with the source record of a bay changed by `g` and the outputs bound to it driven by `f` (R161). -/
def Mirror.updated (bay : Byte) (g : Source → Source) (f : Binding → Bool → Bool) (m : Mirror) : Mirror :=
  ({ m with sources := changeSource bay g m.sources }).drive bay f

/-- The entry into LOST drops the data and drives the SAFE outputs (R75, R161). -/
theorem Mirror.hearLost_eq (bay : Byte) (m : Mirror) :
    m.hearLost bay = m.updated bay (fun r => { r with health := .lost, data := none }) fun g level =>
      if g.policy = .safe then g.safeLevel else level := by
  unfold Mirror.hearLost Mirror.updated
  congr 1
  funext g level
  cases g.policy <;> rfl

/-- A DATA record that is not late and holds four bytes gives the data and drives the enabled bits (R161). -/
theorem Mirror.hearData_eq {v : Verdict} (hv : v ≠ .late) (bay states mask x y : Byte) (rest : List Byte) (m : Mirror) :
    m.hearData bay v (states :: mask :: x :: y :: rest) =
      m.updated bay (fun r => { r with data := some ⟨states, mask⟩ }) fun g level =>
        if mask.getLsbD g.bit.val = true then states.getLsbD g.bit.val else level := by
  cases v with
  | late => exact absurd rfl hv
  | _ => rfl

/-- A late record, and one of fewer than four bytes, is ignored (R161). -/
theorem Mirror.hearData_ignored {v : Verdict} {payload : List Byte} (h : v = .late ∨ payload.length < 4) (bay : Byte)
    (m : Mirror) : m.hearData bay v payload = m := by
  unfold Mirror.hearData
  split
  · rfl
  next hlate =>
    rcases h with rfl | h
    · exact absurd rfl hlate
    · simp only [List.length_cons] at h
      omega
  · rfl

theorem Mirror.updated_binding (bay : Byte) (g : Source → Source) (f : Binding → Bool → Bool) (m : Mirror) (n : Fin 8) :
    ((m.updated bay g f).outputs.get n).binding = (m.outputs.get n).binding := Mirror.drive_binding ..

/-- An output bound to the bay whose binding meets a condition takes a new level, and any other keeps its own (R161). -/
theorem Mirror.updated_level (bay : Byte) (g : Source → Source) (c : Binding → Prop) [DecidablePred c]
    (level : Binding → Bool) (m : Mirror) (n : Fin 8) :
    ((m.updated bay g fun b held => if c b then level b else held).outputs.get n).level =
      match (m.outputs.get n).binding with
      | some b => if b.bay = bay ∧ c b then level b else (m.outputs.get n).level
      | none => (m.outputs.get n).level := by
  rw [Mirror.updated, Mirror.drive_level]
  cases (m.outputs.get n).binding with
  | none => rfl
  | some b => exact (ite_and ..).symm

theorem Mirror.updated_findSource (bay : Byte) {g : Source → Source} (hg : ∀ r, (g r).bay = r.bay)
    (f : Binding → Bool → Bool) (m : Mirror) (b : Byte) :
    findSource b (m.updated bay g f).sources = (findSource b m.sources).map fun r => if b = bay then g r else r :=
  findSource_changeSource_eq_map hg m.sources b

/-- Settles O54: a DATA record, a record that is ignored, the entry into LOST and any other change of health. -/
theorem contactOutputs : Obligations.ContactOutputs := by
  refine fun m bay n b => ⟨fun v states mask x y rest hv => ?_, fun v payload h => Mirror.hearData_ignored h bay m, ?_,
    fun h => ⟨rfl, findSource_changeSource_eq_map (g := fun r => { r with health := h }) (fun _ => rfl) m.sources b⟩⟩
  · rw [Mirror.hearData_eq hv]
    exact ⟨Mirror.updated_binding .., Mirror.updated_level _ _ (fun g => mask.getLsbD g.bit.val = true) ..,
      Mirror.updated_findSource _ (by exact fun _ => rfl) .., rfl⟩
  · rw [Mirror.hearLost_eq]
    exact ⟨Mirror.updated_binding .., Mirror.updated_level _ _ (fun g => g.policy = .safe) ..,
      Mirror.updated_findSource _ (by exact fun _ => rfl) .., rfl⟩

end Sys2Proof.Machine
end

section
namespace Sys2Proof.Machine

/-! ### The choice of a tributary transmitter, source by source (R98, R99) -/

/-- A transmitter is free when its link is UP and nothing is in flight (R98). -/
theorem Port.free_iff {p : Port} : p.free = true ↔ p.link = .up ∧ p.inFlight = none := by simp [Port.free]

/-- A transmitter on a DOWN link, and one with a frame in flight, is not free (R98). -/
theorem Port.not_free {p : Port} (h : p.link = .down ∨ p.inFlight ≠ none) : p.free = false := by
  rw [Bool.eq_false_iff, Ne, Port.free_iff]
  rintro ⟨hup, hidle⟩
  rcases h with hdown | hbusy
  · simp [hup] at hdown
  · exact hbusy hidle

section
variable {p : Port} {r : DeliveryRecord} {rest : List DeliveryRecord} (hfree : p.free = true)
include hfree

theorem Port.choose_of_urgent (hu : p.urgentQ = r :: rest) :
    p.choose = { p with urgentQ := rest, inFlight := some (.delivery r) } := by
  unfold Port.choose
  simp only [if_pos hfree, hu]

theorem Port.choose_of_reply {y : Reply} (hu : p.urgentQ = []) (hy : p.reply = some y) :
    p.choose = { p with reply := none, inFlight := some (.reply y) } := by
  unfold Port.choose
  simp only [if_pos hfree, hu, hy]

theorem Port.choose_of_report (hu : p.urgentQ = []) (hy : p.reply = none) (hr : p.report = true) :
    p.choose = { p with report := false, inFlight := some (.report p.reports) } := by
  unfold Port.choose
  simp only [if_pos hfree, hu, hy, if_pos hr]

theorem Port.choose_of_normal (hu : p.urgentQ = []) (hy : p.reply = none) (hr : p.report = false)
    (hn : p.normalQ = r :: rest) : p.choose = { p with normalQ := rest, inFlight := some (.delivery r) } := by
  unfold Port.choose
  simp only [if_pos hfree, hu, hy, hr, hn, Bool.false_eq_true, if_false]

theorem Port.choose_of_nothing (hu : p.urgentQ = []) (hy : p.reply = none) (hr : p.report = false)
    (hn : p.normalQ = []) : p.choose = p := by
  unfold Port.choose
  simp only [if_pos hfree, hu, hy, hr, hn, Bool.false_eq_true, if_false]

end

/-- Settles O16, source by source in the order of R98. -/
theorem transmitterChoice : Obligations.TransmitterChoice := by
  refine fun p => ⟨fun hbusy => Port.choose_of_busy (Port.not_free hbusy), fun hup hidle => ?_⟩
  have hfree : p.free = true := Port.free_iff.mpr ⟨hup, hidle⟩
  exact ⟨fun r rest hu => Port.choose_of_urgent hfree hu, fun hu y hy => Port.choose_of_reply hfree hu hy,
    fun hu hy hr => Port.choose_of_report hfree hu hy hr,
    fun hu hy hr r rest hn => Port.choose_of_normal hfree hu hy hr hn,
    fun hu hy hr hn => Port.choose_of_nothing hfree hu hy hr hn⟩

/-! ### Records and notices at the tail of a queue (R94 to R98) -/

section
variable {p : Port} (hlegal : PortLegal p) (hup : p.link = .up) (r : DeliveryRecord)
include hlegal hup

/-- A free transmitter of a legal port takes an urgent record at once (R98). -/
theorem Port.placeUrgent_of_free (hidle : p.inFlight = none) :
    p.placeUrgent r = { p with inFlight := some (.delivery r) } := by
  have hfree : p.free = true := Port.free_iff.mpr ⟨hup, hidle⟩
  obtain ⟨hu, -, -, -⟩ := hlegal.freeIdle hfree
  rw [Port.placeUrgent, Port.choose_of_urgent (p := { p with urgentQ := p.urgentQ ++ [r] }) hfree (by rw [hu]; rfl),
    ← hu]

/-- A free transmitter of a legal port takes a normal record at once (R98); its queue is empty, so NEAR_FULL is not
raised. -/
theorem Port.placeNormal_of_free (hidle : p.inFlight = none) :
    p.placeNormal r = { p with inFlight := some (.delivery r) } := by
  have hfree : p.free = true := Port.free_iff.mpr ⟨hup, hidle⟩
  obtain ⟨hu, hy, hr, hn⟩ := hlegal.freeIdle hfree
  have hfew : p.normalQ.length + 1 ≠ Config.nearFullCount := by simp [hn, Config.nearFullCount]
  rw [Port.placeNormal, if_neg hfew,
    Port.choose_of_normal (p := { p with normalQ := p.normalQ ++ [r] }) hfree hu hy hr (by rw [hn]; rfl), ← hn]

end

/-- While a frame is in flight an urgent record waits at the tail of its queue (R95). -/
theorem Port.placeUrgent_of_busy {p : Port} (hbusy : p.inFlight ≠ none) (r : DeliveryRecord) :
    p.placeUrgent r = { p with urgentQ := p.urgentQ ++ [r] } :=
  Port.choose_of_busy (Port.not_free (p := { p with urgentQ := p.urgentQ ++ [r] }) (.inr hbusy))

/-- While a frame is in flight a normal record waits at the tail of its queue, and the 24th raises NEAR_FULL (R96). -/
theorem Port.placeNormal_of_busy {p : Port} (hbusy : p.inFlight ≠ none) (r : DeliveryRecord) :
    p.placeNormal r =
      if p.normalQ.length = 23 then ({ p with normalQ := p.normalQ ++ [r] } : Port).raise .nearFull
      else { p with normalQ := p.normalQ ++ [r] } := by
  have hwait : ({ p with normalQ := p.normalQ ++ [r] } : Port).choose = { p with normalQ := p.normalQ ++ [r] } :=
    Port.choose_of_busy (Port.not_free (.inr hbusy))
  rw [Port.placeNormal, hwait]
  simp [Config.nearFullCount]

/-- A DATA record on an UP link is placed in the queue of its class, or refused when that queue is full (R94, R95). -/
theorem Port.offerData_of_up {p : Port} (hup : p.link = .up) (urgent : Bool) (r : DeliveryRecord) :
    p.offerData urgent r =
      if urgent then (if p.urgentQ.length < 8 then p.placeUrgent r else p.overrun)
      else if p.normalQ.length < 32 then p.placeNormal r else p.overrun :=
  if_neg (by simp [hup])

/-- A notice on an UP link is placed in the normal queue, which is made to have room for it (R97). -/
theorem Port.offerNotice_of_up {p : Port} (hup : p.link = .up) (r : DeliveryRecord) :
    p.offerNotice r =
      if p.normalQ.length < 32 then p.placeNormal r
      else ({ p with normalQ := displace p.normalQ ++ [r] } : Port).choose.overrun :=
  if_neg (by simp [hup])

/-- A legal port with a full normal queue has a frame in flight. -/
theorem Port.inFlight_of_full {p : Port} (hlegal : PortLegal p) (hup : p.link = .up) (hfull : p.normalQ.length = 32) :
    p.inFlight ≠ none := by
  intro hidle
  obtain ⟨-, -, -, hn⟩ := hlegal.freeIdle (Port.free_iff.mpr ⟨hup, hidle⟩)
  simp [hn] at hfull

/-- Making a place removes the oldest DATA record, or the head when there is none, and keeps the others in their
order (R97). -/
theorem displace_split {q : List DeliveryRecord} (hq : q ≠ []) :
    ∃ (before after : List DeliveryRecord) (gone : DeliveryRecord),
      q = before ++ gone :: after
      ∧ (gone.kind = .data ∨ before = [] ∧ ∀ x ∈ q, x.kind ≠ .data)
      ∧ (∀ x ∈ before, x.kind ≠ .data)
      ∧ displace q = before ++ after := by
  unfold displace
  split
  case isTrue hdata =>
    obtain ⟨x, hx, hk⟩ := List.any_eq_true.mp hdata
    obtain ⟨gone, before, after, hbefore, hgone, hsplit, herase⟩ := List.exists_of_eraseP (p := (·.kind == .data)) hx hk
    exact ⟨before, after, gone, hsplit, .inl (by simpa using hgone), by simpa using hbefore, herase⟩
  case isFalse hnone =>
    obtain ⟨gone, after, rfl⟩ := List.exists_cons_of_ne_nil hq
    exact ⟨[], after, gone, rfl, .inr ⟨rfl, by simpa using hnone⟩, nofun, rfl⟩

/-- A DATA record offered to a legal port whose queue for it has room (R94 to R96, R98). -/
theorem Port.offerData_room {p : Port} (hlegal : PortLegal p) (hup : p.link = .up) {urgent : Bool}
    (hroom : (urgent = true ∧ p.urgentQ.length < 8) ∨ (urgent = false ∧ p.normalQ.length < 32)) (r : DeliveryRecord) :
    (p.inFlight = none → p.offerData urgent r = { p with inFlight := some (.delivery r) })
    ∧ (p.inFlight ≠ none → urgent = true → p.offerData urgent r = { p with urgentQ := p.urgentQ ++ [r] })
    ∧ (p.inFlight ≠ none → urgent = false → p.normalQ.length ≠ 23 →
        p.offerData urgent r = { p with normalQ := p.normalQ ++ [r] })
    ∧ (p.inFlight ≠ none → urgent = false → p.normalQ.length = 23 →
        p.offerData urgent r = ({ p with normalQ := p.normalQ ++ [r] } : Port).raise .nearFull) := by
  rw [Port.offerData_of_up hup]
  rcases hroom with ⟨rfl, hroom⟩ | ⟨rfl, hroom⟩
  · rw [if_pos rfl, if_pos hroom]
    exact ⟨Port.placeUrgent_of_free hlegal hup r, fun hbusy _ => Port.placeUrgent_of_busy hbusy r, nofun, nofun⟩
  · rw [if_neg Bool.false_ne_true, if_pos hroom]
    refine ⟨Port.placeNormal_of_free hlegal hup r, nofun, fun hbusy _ hcount => ?_, fun hbusy _ hcount => ?_⟩
    · rw [Port.placeNormal_of_busy hbusy, if_neg hcount]
    · rw [Port.placeNormal_of_busy hbusy, if_pos hcount]

/-- A notice offered to a legal port whose normal queue is full displaces a record (R97). -/
theorem Port.offerNotice_full {p : Port} (hlegal : PortLegal p) (hup : p.link = .up) (hfull : p.normalQ.length = 32)
    (r : DeliveryRecord) :
    p.offerNotice r = ({ p with normalQ := displace p.normalQ ++ [r] } : Port).overrun := by
  have hbusy : p.inFlight ≠ none := Port.inFlight_of_full hlegal hup hfull
  have hwait : ({ p with normalQ := displace p.normalQ ++ [r] } : Port).free = false := Port.not_free (.inr hbusy)
  rw [Port.offerNotice_of_up hup, if_neg (by omega), Port.choose_of_busy hwait]

/-- Settles O17: a DATA record by whether its queue has room, then a notice by what `displace` removes for it. -/
theorem deliveryPlacement : Obligations.DeliveryPlacement := by
  refine ⟨fun p urgent r hlegal => ⟨fun hdown => if_pos hdown, fun hup hfull => ?_,
      fun hup hroom => Port.offerData_room hlegal hup hroom r⟩,
    fun p r hlegal => ⟨fun hdown => if_pos hdown, fun hup hfull => ?_, fun hup hroom _ => ?_⟩⟩
  · rw [Port.offerData_of_up hup]
    rcases hfull with ⟨rfl, hfull⟩ | ⟨rfl, hfull⟩ <;> simp [hfull, Port.overrun]
  · have hne : p.normalQ ≠ [] := List.ne_nil_of_length_pos (by omega)
    obtain ⟨before, after, gone, hsplit, hgone, hbefore, hdisplace⟩ := displace_split hne
    refine ⟨before, after, gone, hsplit, hgone, hbefore, ?_⟩
    rw [Port.offerNotice_full hlegal hup hfull, hdisplace, Port.overrun]
  · rw [Port.offerNotice_of_up hup, Port.offerData_of_up hup, if_pos hroom, if_neg Bool.false_ne_true, if_pos hroom]

/-! ### Report kinds and the ALERT pin (R83, R171) -/

/-- Each of the 9 bits of a pending set is that of a report kind (R13). -/
theorem ReportKind.exists_bit : ∀ i < 9, ∃ k : ReportKind, k.bit = i
  | 0, _ => ⟨.health, rfl⟩
  | 1, _ => ⟨.skew, rfl⟩
  | 2, _ => ⟨.line, rfl⟩
  | 3, _ => ⟨.ring, rfl⟩
  | 4, _ => ⟨.overrun, rfl⟩
  | 5, _ => ⟨.nearFull, rfl⟩
  | 6, _ => ⟨.clash, rfl⟩
  | 7, _ => ⟨.profile, rfl⟩
  | 8, _ => ⟨.bayClash, rfl⟩

/-- A pending set is non-empty exactly when some kind is pending. -/
theorem ReportSet.ne_zero_iff {reports : ReportSet} : reports ≠ 0 ↔ ∃ k : ReportKind, reports.has k = true := by
  constructor
  · contrapose!
    intro hnone
    refine BitVec.eq_of_getLsbD_eq fun i hi => ?_
    obtain ⟨k, rfl⟩ := ReportKind.exists_bit i hi
    simpa [ReportSet.has] using hnone k
  · rintro ⟨k, hk⟩ rfl
    simp [ReportSet.has] at hk

/-- A new kind raised while a frame is in flight leaves a REPORT waiting in the slot (R171). -/
theorem Port.raise_of_busy {p : Port} {k : ReportKind} (hup : p.link = .up) (hnew : p.reports.has k = false)
    (hbusy : p.inFlight ≠ none) : p.raise k = { p with reports := p.reports.add k, report := true } := by
  rw [Port.raise_new hup hnew]
  exact Port.choose_of_busy (Port.not_free (.inr hbusy))

/-- A new kind raised at a free transmitter of a legal port is in flight at once (R98, R171). -/
theorem Port.raise_of_free {p : Port} {k : ReportKind} (hlegal : PortLegal p) (hup : p.link = .up)
    (hnew : p.reports.has k = false) (hidle : p.inFlight = none) :
    p.raise k = { p with reports := p.reports.add k, inFlight := some (.report (p.reports.add k)) } := by
  have hfree : p.free = true := Port.free_iff.mpr ⟨hup, hidle⟩
  obtain ⟨hu, hy, hr, -⟩ := hlegal.freeIdle hfree
  rw [Port.raise_new hup hnew,
    Port.choose_of_report (p := { p with reports := p.reports.add k, report := true }) hfree hu hy rfl, ← hr]

/-- Settles O18: the kind is added by `ReportSet.add`, and the pin follows `ReportSet.ne_zero_iff`. -/
theorem reportRaising : Obligations.ReportRaising := by
  refine ⟨fun p k hlegal => ⟨Port.raise_idle, fun hup hnew => ⟨p.reports.add k, ReportSet.has_add p.reports k,
    Port.raise_of_busy hup hnew, Port.raise_of_free hlegal hup hnew⟩⟩, fun s t => ?_⟩
  rw [← ReportSet.ne_zero_iff]
  simp [State.alert, Port.alert]

/-! ### TRIBUTARY_END_OF_TRANSMISSION (R87, R98) -/

theorem Port.endOfTransmission_of_idle {p : Port} (h : p.inFlight = none) : p.endOfTransmission = p := by
  simp only [Port.endOfTransmission, h]

theorem Port.endOfTransmission_of_delivery {p : Port} {r : DeliveryRecord} (h : p.inFlight = some (.delivery r)) :
    p.endOfTransmission = ({ p with
      inFlight := none
      counters := { p.counters with delivered := p.counters.delivered + 1 } } : Port).choose := by
  simp only [Port.endOfTransmission, h]

theorem Port.endOfTransmission_of_other {p : Port} {f : TribFrame} (h : p.inFlight = some f)
    (hother : ∀ r, f ≠ .delivery r) : p.endOfTransmission = ({ p with inFlight := none } : Port).choose := by
  cases f with
  | delivery r => exact absurd rfl (hother r)
  | reply y => simp only [Port.endOfTransmission, h]
  | report kinds => simp only [Port.endOfTransmission, h]

/-- The end of transmission of the frame in flight changes one port. -/
theorem exec_tributaryEnd_inFlight (t : Trib) (s : State) :
    exec (.tributaryEndOfTransmission t .inFlight) s =
      .next { s with ports := s.ports.set t (s.ports.get t).endOfTransmission } := rfl

/-- Settles O22, by what is in flight. -/
theorem tributaryEnd : Obligations.TributaryEnd := by
  refine fun t s => ⟨rfl, fun hidle => ?_, fun r hr => ?_, fun f hf hother => ?_⟩
  · rw [exec_tributaryEnd_inFlight, Port.endOfTransmission_of_idle hidle, Quad.set_get]
  · rw [exec_tributaryEnd_inFlight, Port.endOfTransmission_of_delivery hr]
  · rw [exec_tributaryEnd_inFlight, Port.endOfTransmission_of_other hf hother]

end Sys2Proof.Machine
end

section
namespace Sys2Proof.Machine

/-! ### The lines under every step (O56) -/

/-- Settles O56: a legal profile with legal lines is one of the parts that every step keeps. -/
theorem linesKept : Obligations.LinesKept := by
  intro s u hprofile hreceivers hegresses h
  obtain ⟨hprofile', hreceivers', hegresses'⟩ := (step_kept h).lines ⟨hprofile, hreceivers, hegresses⟩
  exact ⟨hprofile', hreceivers', hegresses'⟩

/-! ### The LINE requests (R111 to R114, R132) -/

/-- A line code out of range names no line (R111, R167). -/
theorem lineOfCode_eq_none_iff (c : Byte) : lineOfCode c = none ↔ 1 < c.toNat := by
  unfold lineOfCode
  rcases c.toNat with _ | _ | n <;> simp

section
variable {line : Byte} {l : Line} {s : State}

theorem enableEffect_range (h : lineOfCode line = none ∨ s.bayValid = false) :
    enableEffect line s = .only s .range := by
  unfold enableEffect
  split
  · rfl
  case h_2 hl => exact if_pos (h.resolve_left (by simp [hl]))

theorem enableEffect_on (hvalid : s.bayValid = true) (hon : (s.receivers.get l).state ≠ .off) :
    enableEffect (lineCode l) s = .done s := by
  simp only [enableEffect, lineOfCode_code, hvalid, Bool.true_eq_false, if_false]
  split
  case h_1 hoff => exact absurd hoff hon
  case h_2 => rfl
  case h_3 => rfl

theorem enableEffect_off (hvalid : s.bayValid = true) (hoff : (s.receivers.get l).state = .off) :
    enableEffect (lineCode l) s = .done ((s.startSearch l (s.floor l)).raiseAll .line) := by
  simp only [enableEffect, lineOfCode_code, hvalid, Bool.true_eq_false, if_false, hoff]

theorem disableEffect_range (h : lineOfCode line = none) : disableEffect line s = .only s .range := by
  simp only [disableEffect, h]

theorem disableEffect_off (hoff : (s.receivers.get l).state = .off) : disableEffect (lineCode l) s = .done s := by
  simp only [disableEffect, lineOfCode_code, if_pos hoff]

theorem disableEffect_lastPath (hon : (s.receivers.get l).state ≠ .off)
    (hother : (s.receivers.get l.other).state ≠ .locked) : disableEffect (lineCode l) s = .only s .lastPath := by
  simp only [disableEffect, lineOfCode_code, if_neg hon, if_pos hother]

theorem disableEffect_done (hon : (s.receivers.get l).state ≠ .off)
    (hother : (s.receivers.get l.other).state = .locked) : disableEffect (lineCode l) s = .done (s.turnOff l) := by
  simp only [disableEffect, lineOfCode_code, if_neg hon, if_neg (not_not.mpr hother)]

theorem restartEffect_range (h : lineOfCode line = none) : restartEffect line s = .only s .range := by
  simp only [restartEffect, h]

theorem restartEffect_off (hoff : (s.receivers.get l).state = .off) :
    restartEffect (lineCode l) s = .only s .refused := by
  simp only [restartEffect, lineOfCode_code, hoff]

theorem restartEffect_search (hsearch : (s.receivers.get l).state = .search) :
    restartEffect (lineCode l) s = .done (s.changeReceiver l fun r =>
      { r with level := s.floor l, dwellTimer := some (s.dueIn s.profile.dwell) }) := by
  simp only [restartEffect, lineOfCode_code, hsearch]

theorem restartEffect_locked (hlocked : (s.receivers.get l).state = .locked) :
    restartEffect (lineCode l) s = .done (s.departed l (s.floor l) (s.receivers.get l).counters) := by
  simp only [restartEffect, lineOfCode_code, hlocked, State.departForSearch_eq]

end

/-- An entry into OFF from SEARCH or LOCKED, in the statements' terms: only an open egress is flushed (R112, R132). -/
theorem State.turnOff_eq {l : Line} {s : State} (hon : (s.receivers.get l).state ≠ .off) :
    s.turnOff l = { s with
      receivers := s.receivers.set l ⟨.off, (s.receivers.get l).level, none, none, 0, (s.receivers.get l).counters⟩
      egresses :=
        if (s.receivers.get l).state = .search then s.egresses
        else s.egresses.set l ((s.egresses.get l).flush s.profile.urgentBurst)
      ports := Quad.ofFn fun u => (s.ports.get u).raise .line } := by
  unfold State.turnOff State.isOpen
  cases hstate : (s.receivers.get l).state
  case search => rfl
  case locked => rfl
  case off => exact absurd hstate hon

/-- Settles O31, action by action and result by result. -/
theorem lineRequests : Obligations.LineRequests := by
  refine ⟨fun t line s r hr => ⟨fun h => ?_, ?_⟩, fun t line s r hr => ⟨fun h => ?_, ?_⟩,
    fun t line s r hr => ⟨fun h => ?_, ?_⟩⟩
  · refine exec_served rfl hr (enableEffect_range ?_)
    rw [lineOfCode_eq_none_iff, ← Bool.not_eq_true, State.bayValid, validBay_iff]
    exact h.imp_right fun h hvalid => h.elim hvalid.1 hvalid.2
  · rintro hzero hmax l rfl
    have hvalid : (s.taken t).bayValid = true := (validBay_iff _).mpr ⟨hzero, hmax⟩
    exact ⟨fun hon => exec_served rfl hr (enableEffect_on hvalid hon),
      fun hoff => exec_served rfl hr (enableEffect_off hvalid hoff)⟩
  · exact exec_served rfl hr (disableEffect_range ((lineOfCode_eq_none_iff line).mpr h))
  · rintro l rfl
    refine ⟨fun hoff => exec_served rfl hr (disableEffect_off (s := s.taken t) hoff),
      fun hon hother => exec_served rfl hr (disableEffect_lastPath (s := s.taken t) hon hother), fun hon hother => ?_⟩
    have hact := disableEffect_done (s := s.taken t) hon hother
    rw [State.turnOff_eq (s := s.taken t) hon] at hact
    exact exec_served rfl hr hact
  · exact exec_served rfl hr (restartEffect_range ((lineOfCode_eq_none_iff line).mpr h))
  · rintro l rfl
    exact ⟨fun hoff => exec_served rfl hr (restartEffect_off (s := s.taken t) hoff),
      fun hsearch => exec_served rfl hr (restartEffect_search (s := s.taken t) hsearch),
      fun hlocked => exec_served rfl hr (restartEffect_locked (s := s.taken t) hlocked)⟩

end Sys2Proof.Machine
end

section
namespace Sys2Proof.Machine

/-! ### The events of a line receiver (R106 to R108, R115, R119) -/

section
variable {l : Line} {s : State}

theorem exec_lockAcquired_idle (h : (s.receivers.get l).state ≠ .search) : exec (.lockAcquired l) s = .next s := by
  show execLockAcquired l s = _
  unfold execLockAcquired
  split
  case h_1 hsearch => exact absurd hsearch h
  case h_2 => rfl
  case h_3 => rfl

theorem exec_lockAcquired_search (h : (s.receivers.get l).state = .search) :
    exec (.lockAcquired l) s = .next (s.lock l) := by
  show execLockAcquired l s = _
  simp only [execLockAcquired, h]

theorem exec_lockLost_idle (h : (s.receivers.get l).state ≠ .locked) : exec (.lockLost l) s = .next s := by
  show execLockLost l s = _
  unfold execLockLost
  split
  case h_1 hlocked => exact absurd hlocked h
  case h_2 => rfl
  case h_3 => rfl

theorem exec_lockLost_locked (h : (s.receivers.get l).state = .locked) :
    exec (.lockLost l) s = .next
      ((s.countLine l fun c => { c with lockLosses := c.lockLosses + 1 }).departForSearch l
        (nextLevel (s.floor l) (s.receivers.get l).level)) := by
  show execLockLost l s = _
  simp only [execLockLost, h]
  rfl

theorem exec_dwellExpiry_idle (h : (s.receivers.get l).dwellTimer = none ∨ (s.receivers.get l).state ≠ .search) :
    exec (.dwellExpiry l) s = .next s := by
  show execDwellExpiry l s = _
  unfold execDwellExpiry
  split
  case h_1 due hsearch hdue => simp [hdue, hsearch] at h
  case h_2 => rfl

/-- A dwell expiry in SEARCH changes the receiver alone, at the reading that the timer brings (R106). -/
theorem exec_dwellExpiry_search (h : (s.receivers.get l).state = .search) {due : Time}
    (hdue : (s.receivers.get l).dwellTimer = some due) :
    exec (.dwellExpiry l) s = .next (State.changeReceiver l
      (fun r => { r with
        level := stepLevel (s.floor l) r.level
        dwellTimer := some ((s.advanceTo due).timeBase + millis s.profile.dwell) })
      { s with timeBase := (s.advanceTo due).timeBase }) := by
  show execDwellExpiry l s = _
  simp only [execDwellExpiry, h, hdue]
  rw [State.advanceTo_eq]
  rfl

theorem exec_qualityPeriod_idle (h : (s.receivers.get l).qualityTimer = none ∨ (s.receivers.get l).state ≠ .locked) :
    exec (.qualityPeriodExpiry l) s = .next s := by
  show execQualityPeriodExpiry l s = _
  unfold execQualityPeriodExpiry
  split
  case h_1 due hlocked hdue => simp [hdue, hlocked] at h
  case h_2 => rfl

/-- The end of a quality period in LOCKED changes the receiver alone, at the reading that the timer brings (R115). -/
theorem exec_qualityPeriod_locked (h : (s.receivers.get l).state = .locked) {due : Time}
    (hdue : (s.receivers.get l).qualityTimer = some due) :
    exec (.qualityPeriodExpiry l) s = .next (State.changeReceiver l
      (fun r => { r with
        qualityCount := 0
        qualityTimer := some ((s.advanceTo due).timeBase + millis s.profile.qualityPeriod) })
      { s with timeBase := (s.advanceTo due).timeBase }) := by
  show execQualityPeriodExpiry l s = _
  simp only [execQualityPeriodExpiry, h, hdue]
  rw [State.advanceTo_eq]
  rfl

end

/-- A departure for SEARCH right after a count, in the statements' terms (R108). -/
theorem State.departForSearch_countLine (l : Line) (level : Nat) (count : ReceiverCounters → ReceiverCounters)
    (s : State) :
    (s.countLine l count).departForSearch l level = s.departed l level (count (s.receivers.get l).counters) := by
  rw [State.departForSearch_eq]
  simp only [State.departed, State.countLine, State.changeReceiver, Pair.set_set, Pair.get_set_self]

/-- Settles O39, by the state of the receiver. -/
theorem lockEvents : Obligations.LockEvents := by
  refine ⟨fun l s => ⟨exec_lockAcquired_idle, exec_lockAcquired_search⟩,
    fun l s => ⟨exec_lockLost_idle, fun hlocked => ?_⟩⟩
  rw [exec_lockLost_locked hlocked, State.departForSearch_countLine]
  rfl

/-- Settles O40, timer by timer. -/
theorem receiverTimers : Obligations.ReceiverTimers :=
  ⟨fun _ _ => ⟨exec_dwellExpiry_idle, fun hsearch _ hdue => exec_dwellExpiry_search hsearch hdue⟩,
    fun _ _ => ⟨exec_qualityPeriod_idle, fun hlocked _ hdue => exec_qualityPeriod_locked hlocked hdue⟩⟩

end Sys2Proof.Machine
end

section
namespace Sys2Proof.Machine

/-! ### A choice of the transmit arbiter (R125 to R127) -/

/-- What stands before and at a cut of the visiting order (R127). -/
theorem visitOrder_append {n position i : Nat} {before after : List Nat}
    (h : visitOrder n position = before ++ i :: after) :
    before.length < n ∧ i = (position + before.length) % n ∧
      ∀ j < before.length, (position + j) % n ∈ before := by
  have hlen : n = before.length + (after.length + 1) := by simpa [visitOrder] using congrArg List.length h
  have hget (j : Nat) (hj : j < n) : (before ++ i :: after)[j]? = some ((position + j) % n) := by
    rw [← h]
    simp [visitOrder, hj]
  refine ⟨by omega, ?_, fun j hj => ?_⟩
  · simpa using hget before.length (by omega)
  · have hbefore := hget j (by omega)
    rw [List.getElem?_append_left hj] at hbefore
    exact List.mem_of_getElem? hbefore

/-- A scan stops at the first position, from the pointer on, whose queue holds a frame (R127). -/
theorem Egress.scan_first {list : List NormalQueue} {e : Egress} {i : Nat} {q : NormalQueue}
    (h : e.scan list = some (i, q)) :
    ∃ k < list.length, i = (e.position + k) % list.length ∧
      ∀ j < k, ∀ p, list[(e.position + j) % list.length]? = some p → e.queues.get (.normal p) = [] := by
  unfold Egress.scan at h
  obtain ⟨before, i', after, hvisit, hstop, hpass⟩ := List.findSome?_eq_some_iff.mp h
  obtain ⟨hk, hi', hbefore⟩ := visitOrder_append hvisit
  refine ⟨before.length, hk, ?_, fun j hj p hp => ?_⟩
  · rw [← hi']
    split at hstop
    case h_1 => split at hstop <;> simp_all
    case h_2 => simp at hstop
  · have hskip := hpass _ (hbefore j hj)
    rw [hp] at hskip
    simpa using hskip

section
variable {e : Egress} {list : List NormalQueue} {burst : Nat} {f : RingFrame} {rest : List RingFrame}

/-- An urgent choice of a free transmitter (R126). -/
theorem Egress.choose_urgent (hfree : e.inFlight = none) (hurgent : e.queues.urgent = f :: rest)
    (hmay : 0 < e.credit ∨ e.normalWaiting = false) :
    e.choose true list burst = { e with
      queues := { e.queues with urgent := rest }, inFlight := some (f, .urgent), credit := e.credit - 1 } := by
  rw [Egress.choose, if_pos ⟨rfl, hfree⟩, if_pos ⟨by simp [hurgent], hmay⟩, Egress.urgentChoice,
    Egress.take_cons (q := .urgent) hurgent]
  rfl

/-- A normal choice of a free transmitter (R126, R127). -/
theorem Egress.choose_normal (hfree : e.inFlight = none)
    (hmust : e.queues.urgent = [] ∨ e.credit = 0 ∧ e.normalWaiting = true) {i : Nat} {q : NormalQueue}
    (hscan : e.scan list = some (i, q)) (hq : e.queues.get (.normal q) = f :: rest) :
    e.choose true list burst = { e with
      queues := e.queues.set (.normal q) rest, inFlight := some (f, .normal q),
      position := (i + 1) % list.length, credit := burst } := by
  have hnot : ¬ (e.queues.urgent ≠ [] ∧ (0 < e.credit ∨ e.normalWaiting = false)) := by
    rintro ⟨hne, hmay⟩
    rcases hmust with hempty | ⟨hcredit, hwaiting⟩
    · exact hne hempty
    · simp [hcredit, hwaiting] at hmay
  rw [Egress.choose, if_pos ⟨rfl, hfree⟩, if_neg hnot, Egress.normalChoice, hscan]
  simp only [Egress.take_cons hq]

end

theorem Egress.normalWaiting_eq_false_iff (e : Egress) :
    e.normalWaiting = false ↔ ∀ q : NormalQueue, e.queues.get (.normal q) = [] := by
  rw [← Bool.not_eq_true, e.normalWaiting_iff]
  push Not
  rfl

/-- A scan of a list that names every queue finds a head frame when some normal queue holds one (R127). -/
theorem Egress.exists_scan {e : Egress} {list : List NormalQueue} (hnamed : ∀ q : NormalQueue, q ∈ list)
    (h : ∃ q : NormalQueue, e.queues.get (.normal q) ≠ []) :
    ∃ i q f rest, e.scan list = some (i, q) ∧ e.queues.get (.normal q) = f :: rest := by
  obtain ⟨p, hp⟩ := h
  obtain ⟨⟨i, q⟩, hscan⟩ := Option.isSome_iff_exists.mp (Egress.scan_isSome (hnamed p) hp)
  obtain ⟨f, rest, hq⟩ := List.exists_cons_of_ne_nil (Egress.scan_some hscan).2
  exact ⟨i, q, f, rest, hscan, hq⟩

/-- Settles O44, by which of the two choices the arbiter makes. -/
theorem arbiterChoice : Obligations.ArbiterChoice := by
  refine fun e list burst hfree hnamed => ⟨e.choose_empty true list burst, fun f rest hurgent hmay => ?_,
    fun hmust hnormal => ?_⟩
  · rw [← e.normalWaiting_eq_false_iff] at hmay
    exact e.choose_urgent hfree hurgent hmay
  · have hwaiting : e.normalWaiting = true := e.normalWaiting_iff.mpr hnormal
    obtain ⟨i, q, f, rest, hscan, hq⟩ := Egress.exists_scan hnamed hnormal
    have hchoose := Egress.choose_normal (burst := burst) hfree (hmust.imp_right fun h => ⟨h, hwaiting⟩) hscan hq
    have hname := (Egress.scan_some hscan).1
    obtain ⟨k, hk, rfl, hfirst⟩ := Egress.scan_first hscan
    exact ⟨k, q, f, rest, hk, hname, hfirst, hq, hchoose⟩

/-! ### A frame offered to an egress (R123, R125) -/

section
variable {e : Egress} {list : List NormalQueue} {burst : Nat} {q : QueueName} {f : RingFrame}

theorem Egress.offer_closed : e.offer false list burst q f = { e with lineDown := e.lineDown + 1 } := rfl

theorem Egress.offer_full (hfull : q.capacity ≤ (e.queues.get q).length) :
    e.offer true list burst q f = { e with drops := e.drops.set q (e.drops.get q + 1) } := by
  have hjudge : e.judge true q = .queueFull := by simp [Egress.judge, hfull]
  simp only [Egress.offer, hjudge]

theorem Egress.offer_placed (hroom : (e.queues.get q).length < q.capacity) :
    e.offer true list burst q f =
      ({ e with queues := e.queues.set q (e.queues.get q ++ [f]) } : Egress).choose true list burst := by
  have hjudge : e.judge true q = .placed := by simp [Egress.judge, hroom]
  simp only [Egress.offer, hjudge]

/-- A busy transmitter chooses nothing (R125). -/
theorem Egress.choose_busy (isOpen : Bool) (hbusy : e.inFlight ≠ none) : e.choose isOpen list burst = e :=
  if_neg fun h => hbusy h.2

/-- Emptying the one queue that holds frames leaves none queued. -/
theorem noFrames_set_set (q : QueueName) (only : List RingFrame) : (noFrames.set q only).set q [] = noFrames := by
  refine PerQueue.eq_noFrames fun r => ?_
  by_cases hr : r = q
  · rw [hr, PerQueue.get_set_self]
  · rw [PerQueue.get_set_ne _ _ hr, PerQueue.get_set_ne _ _ hr, noFrames_get]

/-- A free transmitter takes the only frame that is queued, where the arbiter visits its queue (R125 to R127). -/
theorem Egress.choose_only (hfree : e.inFlight = none) (honly : e.queues = noFrames.set q [f])
    (hvisit : q ∈ QueueName.urgent :: list.map .normal) :
    (e.choose true list burst).inFlight = some (f, q) ∧ (e.choose true list burst).queues = noFrames := by
  have hget : e.queues.get q = [f] := by rw [honly, PerQueue.get_set_self]
  have hother (r : QueueName) (hr : r ≠ q) : e.queues.get r = [] := by
    rw [honly, PerQueue.get_set_ne _ _ hr, noFrames_get]
  cases q with
  | urgent =>
    have hnone : e.normalWaiting = false := e.normalWaiting_eq_false_iff.mpr fun p => hother _ nofun
    rw [Egress.choose_urgent hfree hget (.inr hnone), honly]
    exact ⟨rfl, noFrames_set_set .urgent [f]⟩
  | normal p =>
    have hp : p ∈ list := by simpa using hvisit
    obtain ⟨⟨i, p'⟩, hscan⟩ := Option.isSome_iff_exists.mp (Egress.scan_isSome (e := e) hp (by simp [hget]))
    obtain rfl : p' = p := by
      by_contra hne
      exact (Egress.scan_some hscan).2 (hother _ (by simpa using hne))
    rw [Egress.choose_normal hfree (.inl (hother .urgent nofun)) hscan hget, honly]
    exact ⟨rfl, noFrames_set_set (.normal p') [f]⟩

end

/-- Settles O43, by the outcome of the offer. -/
theorem egressOffer : Obligations.EgressOffer := by
  intro e isOpen list burst q f capacity offered
  have hcapacity : capacity = q.capacity := rfl
  rw [hcapacity]
  refine ⟨fun hclosed => ?_, fun hopen hfull => ?_, fun hopen hroom => ?_⟩
  · subst hclosed
    exact Egress.offer_closed
  · subst hopen
    exact Egress.offer_full hfull
  · subst hopen
    have hplaced : offered = _ := Egress.offer_placed hroom
    rw [hplaced]
    refine ⟨fun hbusy => Egress.choose_busy true hbusy, fun _ => rfl, fun hfree hempty hvisit => ?_⟩
    exact Egress.choose_only hfree (by simp [hempty]) hvisit

/-! ### The end of a transmission (R129, R131) -/

theorem exec_lineEnd (l : Line) (s : State) :
    exec (.lineEndOfTransmission l .inFlight) s = .next { s with
      egresses := s.egresses.set l
        ((s.egresses.get l).endOfTransmission (s.isOpen l) s.profile.serviceList s.profile.urgentBurst) } := rfl

theorem Egress.endOfTransmission_idle (isOpen : Bool) (list : List NormalQueue) (burst : Nat) {e : Egress}
    (h : e.inFlight = none) : e.endOfTransmission isOpen list burst = e := by
  simp only [Egress.endOfTransmission, h]

theorem Egress.endOfTransmission_sent (isOpen : Bool) (list : List NormalQueue) (burst : Nat) {e : Egress}
    {f : RingFrame} {q : QueueName} (h : e.inFlight = some (f, q)) :
    e.endOfTransmission isOpen list burst =
      ({ e with inFlight := none, sent := e.sent.set q (e.sent.get q + 1) } : Egress).choose isOpen list burst := by
  simp only [Egress.endOfTransmission, h]

/-- A choice only where the line is LOCKED (R121, R125). -/
theorem Egress.choose_isOpen (s : State) (l : Line) (list : List NormalQueue) (burst : Nat) (e : Egress) :
    e.choose (s.isOpen l) list burst =
      if (s.receivers.get l).state = .locked then e.choose true list burst else e := by
  by_cases hlocked : (s.receivers.get l).state = .locked
  · rw [if_pos hlocked, (s.isOpen_iff l).mpr hlocked]
  · have hclosed : s.isOpen l = false := by rwa [← Bool.not_eq_true, s.isOpen_iff]
    rw [if_neg hlocked, hclosed, Egress.choose_closed]

/-- Settles O42, by what the event is of and what is in flight. -/
theorem lineEnd : Obligations.LineEnd := by
  refine fun l s => ⟨rfl, fun hidle => ?_, fun f q hflight => ?_⟩
  · rw [exec_lineEnd, Egress.endOfTransmission_idle _ _ _ hidle, Pair.set_get]
  · rw [exec_lineEnd, Egress.endOfTransmission_sent _ _ _ hflight, Egress.choose_isOpen]

end Sys2Proof.Machine
end

section
namespace Sys2Proof.Machine

/-! ### The ring unit under every step (O58) -/

/-- Settles O58: a legal ring unit is one of the parts that every step keeps. -/
theorem ringKept : Obligations.RingKept := fun _ _ hs h => (step_kept h).ring hs

end Sys2Proof.Machine
end

section
namespace Sys2Proof.Machine

/-! ### The readings of the roster (R152) -/

/-- The pairs heard on a line are the bays with a part there, each with the hop distance of that part. -/
theorem mem_heardOn {x : Line} {roster : List RosterRecord} {bay : Byte} {d : Nat} :
    (bay, d) ∈ heardOn x roster ↔ ∃ rec ∈ roster, rec.bay = bay ∧ ∃ part ∈ rec.parts.get x, part.hops = d := by
  simp only [heardOn, List.mem_filterMap, Option.map_eq_some_iff, Prod.mk.injEq, Option.mem_def]
  constructor
  · rintro ⟨rec, hrec, part, hpart, hbay, hd⟩
    exact ⟨rec, hrec, hbay, part, hpart, hd⟩
  · rintro ⟨rec, hrec, hbay, part, hpart, hd⟩
    exact ⟨rec, hrec, part, hpart, hbay, hd⟩

theorem heardOn_eq_nil_iff {x : Line} {roster : List RosterRecord} :
    heardOn x roster = [] ↔ ∀ rec ∈ roster, rec.parts.get x = none := by
  simp [heardOn]

/-- As many pairs are heard on a line as there are records with a part there. -/
theorem length_heardOn (x : Line) (roster : List RosterRecord) :
    (heardOn x roster).length = (roster.filter fun rec => (rec.parts.get x).isSome).length := by
  rw [heardOn, List.length_filterMap_eq_countP, List.countP_eq_length_filter]
  simp

theorem mem_baysAt {x : Line} {d : Nat} {roster : List RosterRecord} {bay : Byte} :
    bay ∈ baysAt x d roster ↔ ∃ rec ∈ roster, rec.bay = bay ∧ ∃ part ∈ rec.parts.get x, part.hops = d := by
  rw [← mem_heardOn]
  simp [baysAt]

/-- The neighbours are the bays at hop distance 0. -/
theorem neighbours_eq_baysAt (x : Line) (roster : List RosterRecord) : neighbours x roster = baysAt x 0 roster := rfl

theorem farthestDistance_eq_none_iff {x : Line} {roster : List RosterRecord} :
    farthestDistance x roster = none ↔ ∀ rec ∈ roster, rec.parts.get x = none := by
  rw [farthestDistance, List.max?_eq_none_iff, List.map_eq_nil_iff, heardOn_eq_nil_iff]

/-- The largest distance is one that some bay has, and no bay has a larger one. -/
theorem farthestDistance_spec {x : Line} {roster : List RosterRecord} {d : Nat}
    (h : farthestDistance x roster = some d) :
    baysAt x d roster ≠ [] ∧ ∀ rec ∈ roster, ∀ part ∈ rec.parts.get x, part.hops ≤ d := by
  obtain ⟨hmem, hmax⟩ := List.max?_eq_some_iff.mp h
  obtain ⟨⟨bay, _⟩, hheard, rfl⟩ := List.mem_map.mp hmem
  refine ⟨List.ne_nil_of_mem (mem_baysAt.mpr (mem_heardOn.mp hheard)), fun rec hrec part hpart => ?_⟩
  exact hmax _ (List.mem_map_of_mem (mem_heardOn.mpr ⟨rec, hrec, rfl, part, hpart, rfl⟩))

/-- Whatever its value, a pick modulo the length of a list that is not empty gives one of its members. -/
theorem getD_mod_mem {α : Type} {list : List α} (h : list ≠ []) (pick : Nat) (dflt : α) :
    list.getD (pick % list.length) dflt ∈ list := by
  have hlt : pick % list.length < list.length := Nat.mod_lt _ (List.length_pos_iff.mpr h)
  rw [List.getD_eq_getElem _ _ hlt]
  exact List.getElem_mem hlt

/-- The bay named as farthest is one at the largest distance, whatever the free pick (log 10). -/
theorem farthest_spec {x : Line} {pick : Nat} {roster : List RosterRecord} {d : Nat} {bay : Byte}
    (h : farthest x pick roster = some (d, bay)) : farthestDistance x roster = some d ∧ bay ∈ baysAt x d roster := by
  obtain ⟨d', hd, hpair⟩ := Option.map_eq_some_iff.mp h
  cases hpair
  exact ⟨hd, getD_mod_mem (farthestDistance_spec hd).1 _ _⟩

/-- Settles O38: what is heard on the line, its largest distance, and the bay picked there. -/
theorem rosterReadings : Obligations.RosterReadings := by
  refine fun roster x pick => ⟨fun bay => mem_baysAt, ?_, fun d bay h => ?_, length_heardOn x roster⟩
  · rw [farthest, Option.map_eq_none_iff, farthestDistance_eq_none_iff]
  · obtain ⟨hd, hbay⟩ := farthest_spec h
    exact ⟨mem_baysAt.mp hbay, (farthestDistance_spec hd).2⟩

end Sys2Proof.Machine
end

section
namespace Sys2Proof.Machine

/-! ### Own frames (R137, R144 to R146) -/

/-- A stream frame of the own bay is counted as returned-own and goes no further (R137). -/
theorem State.takeFrame_returnedOwn {x : Line} {f : RingFrame} {s : State} {cls : StreamClass}
    (hkind : f.kind = .stream cls) (hown : f.origin = s.ownBay) :
    s.takeFrame x f = s.countRing fun c => { c with returnedOwn := c.returnedOwn + 1 } := by
  unfold State.takeFrame
  simp only [hkind, State.takeStream, if_pos hown]

/-- Settles O45: the frame is counted by its line and then as returned-own. -/
theorem ownFrameRemoved : Obligations.OwnFrameRemoved := by
  intro l bytes s f cls hlocked hgood hkind hown
  rw [exec_lineFrame_good hlocked hgood, State.takeFrame_returnedOwn hkind (by exact hown)]
  rfl

/-- A beacon of the own bay is a return or a bay clash (R144). -/
theorem State.takeFrame_ownBeacon {x : Line} {f : RingFrame} {s : State} {budget interval state : Byte}
    (hkind : f.kind = .beacon) (hown : f.origin = s.ownBay) (hpayload : f.payload = [budget, interval, state]) :
    s.takeFrame x f = s.takeOwnBeacon x budget f := by
  unfold State.takeFrame
  simp only [hkind, hpayload, if_pos hown]

/-- The first record of an outstanding list with a sequence, none before it having that sequence. -/
theorem find?_outstanding {seq : SeqNo} {before later : List Outstanding} {rec : Outstanding} (hrec : rec.seq = seq)
    (hbefore : ∀ o ∈ before, o.seq ≠ seq) :
    ((before ++ rec :: later).find? fun o => decide (o.seq = seq)) = some rec :=
  List.find?_eq_some_iff_append.mpr ⟨by simpa using hrec, before, later, rfl, fun o ho => by simpa using hbefore o ho⟩

/-- An own beacon whose sequence is outstanding on the other line, with a body this part could have built, is a return:
its record leaves the list (R144, R145). -/
theorem State.takeOwnBeacon_matched {x : Line} {budget : Byte} {f : RingFrame} {s : State}
    {before later : List Outstanding} {rec : Outstanding} (hfits : budget.toNat ≤ 63 ∧ f.lap.toNat ≤ budget.toNat)
    (hlist : s.ring.outstanding.get x.other = before ++ rec :: later) (hrec : rec.seq = f.seq)
    (hbefore : ∀ o ∈ before, o.seq ≠ f.seq) :
    s.takeOwnBeacon x budget f = { s with ring := { s.ring with
      outstanding := s.ring.outstanding.set x.other (before ++ later)
      lastReturn := s.ring.lastReturn.set x.other (some s.timeBase)
      returnAge := s.ring.returnAge.set x.other 0
      measured := s.ring.measured.set x.other
        (some ⟨s.timeBase - rec.sendTime, budget.toNat - f.lap.toNat + 1⟩) } } := by
  have hnotin : rec ∉ before := fun hin => hbefore rec hin hrec
  have herase : (before ++ rec :: later).erase rec = before ++ later := by
    rw [List.erase_append_right _ hnotin, List.erase_cons_head]
  unfold State.takeOwnBeacon
  simp only [hlist, find?_outstanding hrec hbefore, ownBodyFits, decide_eq_true hfits, if_true]
  rw [State.changeRing, RingUnit.matched, hlist, herase]

/-- An own beacon that is no return is a bay clash (R144). -/
theorem State.takeOwnBeacon_clash {x : Line} {budget : Byte} {f : RingFrame} {s : State}
    (h : ¬ (budget.toNat ≤ 63 ∧ f.lap.toNat ≤ budget.toNat)
      ∨ ∀ o ∈ s.ring.outstanding.get x.other, o.seq ≠ f.seq) :
    s.takeOwnBeacon x budget f = s.bayClash := by
  unfold State.takeOwnBeacon
  split
  case h_1 rec hfind =>
    have hunfit : ¬ (budget.toNat ≤ 63 ∧ f.lap.toNat ≤ budget.toNat) :=
      h.resolve_right fun hno => hno rec (List.mem_of_find?_eq_some hfind) (by simpa using List.find?_some hfind)
    rw [if_neg (by simpa [ownBodyFits] using hunfit)]
  case h_2 => rfl

/-- Settles O48: the beacon is counted by its line, and is a return or a bay clash. -/
theorem ownBeaconReturn : Obligations.OwnBeaconReturn := by
  intro l bytes s f budget interval state hlocked hgood hkind hown hpayload
  refine ⟨fun hfits before later rec hlist hrec hbefore => ?_, fun hclash => ?_⟩
  all_goals rw [exec_lineFrame_good hlocked hgood, State.takeFrame_ownBeacon hkind (by exact hown) hpayload]
  · rw [State.takeOwnBeacon_matched hfits (by exact hlist) hrec hbefore]
    rfl
  · rw [State.takeOwnBeacon_clash (by exact hclash)]
    rfl

end Sys2Proof.Machine
end

section
namespace Sys2Proof.Machine

/-! ### The ageing of the roster (R151) -/

/-- In an ordered roster a bay has one record, and that record is the one found. -/
theorem find?_of_mem_roster {roster : List RosterRecord} (ho : roster.Pairwise fun x y => x.bay.toNat < y.bay.toNat)
    {rec : RosterRecord} (h : rec ∈ roster) : (roster.find? fun r => decide (r.bay = rec.bay)) = some rec := by
  induction roster with
  | nil => cases h
  | cons first rest ih =>
    obtain ⟨hfirst, hrest⟩ := List.pairwise_cons.mp ho
    rcases List.mem_cons.mp h with rfl | hin
    · simp
    · have hne : first.bay ≠ rec.bay := fun heq => absurd (hfirst rec hin) (by rw [heq]; exact lt_irrefl _)
      rw [List.find?_cons_of_neg (by simpa using hne)]
      exact ih hrest hin

/-- In an ordered roster the part found of a bay is that of any record of the bay. -/
theorem findPart_eq_some_iff {roster : List RosterRecord}
    (ho : roster.Pairwise fun x y => x.bay.toNat < y.bay.toNat) {bay : Byte} {x : Line} {part : RosterPart} :
    findPart bay x roster = some part ↔ ∃ rec ∈ roster, rec.bay = bay ∧ rec.parts.get x = some part := by
  rw [findPart, Option.bind_eq_some_iff]
  constructor
  · rintro ⟨rec, hfind, hpart⟩
    exact ⟨rec, List.mem_of_find?_eq_some hfind, by simpa using List.find?_some hfind, hpart⟩
  · rintro ⟨rec, hrec, rfl, hpart⟩
    exact ⟨rec, find?_of_mem_roster ho hrec, hpart⟩

/-- The records left when part X of a bay is removed: those of the other bays, and the bay's own without part X while
it has the other part (R151). -/
theorem mem_removePart {bay : Byte} {x : Line} {roster : List RosterRecord} {r : RosterRecord} :
    r ∈ removePart bay x roster ↔ ∃ rec ∈ roster, (rec.bay ≠ bay ∧ rec = r)
      ∨ (rec.bay = bay ∧ (rec.parts.get x.other).isSome = true ∧ { rec with parts := rec.parts.set x none } = r) := by
  rw [removePart, List.mem_filterMap]
  refine exists_congr fun rec => and_congr_right fun _ => ?_
  by_cases hbay : rec.bay = bay
  · by_cases hother : (rec.parts.get x.other).isSome = true <;> simp [hbay, hother]
  · simp [hbay]

/-- The parts left when part X of a bay is removed are all the others (R151). -/
theorem part_of_removePart {bay b : Byte} {x y : Line} {roster : List RosterRecord} {part : RosterPart} :
    (∃ r ∈ removePart bay x roster, r.bay = b ∧ r.parts.get y = some part)
      ↔ (∃ rec ∈ roster, rec.bay = b ∧ rec.parts.get y = some part) ∧ (b, y) ≠ (bay, x) := by
  constructor
  · rintro ⟨r, hr, rfl, hpart⟩
    obtain ⟨rec, hrec, ⟨hbay, rfl⟩ | ⟨rfl, -, rfl⟩⟩ := mem_removePart.mp hr
    · exact ⟨⟨rec, hrec, rfl, hpart⟩, fun heq => hbay (Prod.mk.inj heq).1⟩
    · by_cases hline : y = x
      · simp [hline] at hpart
      · exact ⟨⟨rec, hrec, rfl, by simpa [Pair.get_set, hline] using hpart⟩, fun heq => hline (Prod.mk.inj heq).2⟩
  · rintro ⟨⟨rec, hrec, rfl, hpart⟩, hne⟩
    by_cases hbay : rec.bay = bay
    · obtain rfl : y = x.other := Line.eq_other_of_ne fun hline => hne (by rw [hbay, hline])
      exact ⟨_, mem_removePart.mpr ⟨rec, hrec, .inr ⟨hbay, by simp [hpart], rfl⟩⟩, rfl, by simpa using hpart⟩
    · exact ⟨rec, mem_removePart.mpr ⟨rec, hrec, .inl ⟨hbay, rfl⟩⟩, rfl, hpart⟩

/-- A bay keeps a record when part X is removed exactly when it has the other part (R151). -/
theorem bay_of_removePart {bay : Byte} {x : Line} {roster : List RosterRecord} :
    (∃ r ∈ removePart bay x roster, r.bay = bay)
      ↔ ∃ part, ∃ rec ∈ roster, rec.bay = bay ∧ rec.parts.get x.other = some part := by
  constructor
  · rintro ⟨r, hr, hbay⟩
    obtain ⟨rec, hrec, ⟨hne, rfl⟩ | ⟨hrecbay, hother, -⟩⟩ := mem_removePart.mp hr
    · exact absurd hbay hne
    · obtain ⟨part, hpart⟩ := Option.isSome_iff_exists.mp hother
      exact ⟨part, rec, hrec, hrecbay, hpart⟩
  · rintro ⟨part, rec, hrec, hbay, hpart⟩
    exact ⟨_, mem_removePart.mpr ⟨rec, hrec, .inr ⟨hbay, by rw [hpart]; rfl, rfl⟩⟩, hbay⟩

section
variable {bay : Byte} {l : Line} {s : State}

theorem exec_rosterExpiry_missing (h : findPart bay l s.ring.roster = none) :
    exec (.rosterExpiry bay l) s = .next s := by
  show execRosterExpiry bay l s = _
  simp only [execRosterExpiry, h]

theorem exec_rosterExpiry_found {part : RosterPart} (h : findPart bay l s.ring.roster = some part) :
    exec (.rosterExpiry bay l) s = .next { s.advanceTo part.expiry with
      ring := { s.ring with roster := removePart bay l s.ring.roster } } := by
  show execRosterExpiry bay l s = _
  simp only [execRosterExpiry, h, State.changeRing, State.advanceTo_ring]

end

/-- Settles O51: the expired part is removed, which in an ordered roster leaves every other part to be found. -/
theorem rosterExpiry : Obligations.RosterExpiry := by
  refine fun bay l s => ⟨exec_rosterExpiry_missing, fun hlegal part hfound =>
    ⟨removePart bay l s.ring.roster, exec_rosterExpiry_found hfound, ?_, fun b x hne => ?_, ?_⟩⟩
  all_goals
    have hbefore := hlegal.rosterOrdered
    have hafter := (removePart_legal hlegal bay l).rosterOrdered
  · refine Option.eq_none_iff_forall_ne_some.mpr fun other hother => ?_
    exact (part_of_removePart.mp ((findPart_eq_some_iff hafter).mp hother)).2 rfl
  · refine Option.ext fun other => ?_
    rw [findPart_eq_some_iff hafter, findPart_eq_some_iff hbefore, part_of_removePart, and_iff_left hne]
  · rw [bay_of_removePart, Option.ne_none_iff_exists']
    exact exists_congr fun other => (findPart_eq_some_iff hbefore).symm

end Sys2Proof.Machine
end

section
namespace Sys2Proof.Machine

/-! ### Samples of the contact inputs (R155, R156) -/

/-- The ones of a byte are its set positions (R156). -/
theorem ones_eq_length_filter (b : Byte) : ones b = ((List.range 8).filter fun n => b.getLsbD n).length := by
  have hbits : (Oct.ofFn fun i => b.getLsbD i.val).toList = (List.range 8).map fun n => b.getLsbD n := rfl
  rw [ones, hbits, List.count, List.countP_map, List.countP_eq_length_filter]
  simp [Function.comp_def]

section
variable {d : Nat} {level : Bool} {c : ContactInput}

/-- A level that agrees with the accepted state ends the run (R155). -/
theorem ContactInput.sample_agreeing (h : level = c.accepted) :
    c.accepts d level = false ∧ c.sample d level = ⟨c.accepted, 0⟩ := by
  simp [ContactInput.accepts, ContactInput.sample, h]

/-- The sample that completes the debounce count is accepted (R155). -/
theorem ContactInput.sample_accepting (h : level ≠ c.accepted) (hd : d ≤ c.run + 1) :
    c.accepts d level = true ∧ c.sample d level = ⟨level, 0⟩ := by
  simp [ContactInput.accepts, ContactInput.sample, h, hd]

/-- A shorter run of disagreeing samples counts on (R155). -/
theorem ContactInput.sample_counting (h : level ≠ c.accepted) (hd : c.run + 1 < d) :
    c.accepts d level = false ∧ c.sample d level = ⟨c.accepted, c.run + 1⟩ := by
  simp [ContactInput.accepts, ContactInput.sample, h, Nat.not_le.mpr hd]

end

theorem Mirror.changes_getLsbD (levels : Byte) (m : Mirror) (n : Fin 8) :
    (m.changes levels).getLsbD n.val = (m.inputs.get n).accepts m.debounce (levels.getLsbD n.val) := by
  rw [Mirror.changes, Oct.getLsbD_bits, Oct.get_ofFn]

theorem Mirror.sample_inputs_get (levels : Byte) (m : Mirror) (n : Fin 8) :
    (m.sample levels).inputs.get n = (m.inputs.get n).sample m.debounce (levels.getLsbD n.val) := by
  rw [Mirror.sample, Oct.get_ofFn]

/-- The sample event takes the sample at its due reading, then builds the change frame (R155, R157, log 4). -/
theorem exec_contactSample (levels : Byte) (s : State) :
    exec (.contactSample levels) s = .next (
      let sampled : State := { s.advanceTo s.mirror.sampleDue with
        inPins := levels, mirror := s.mirror.sample levels }
      if s.mirror.publish = true ∧ s.mirror.changes levels &&& s.mirror.enableMask ≠ 0 then
        sampled.contactFrame .change
      else sampled) := by
  show execContactSample levels s = _
  simp only [execContactSample, State.contactSample, State.advanceTo_mirror]

/-- Settles O52: each input by how its level stands to its accepted state and its run to the debounce count. -/
theorem contactSample : Obligations.ContactSample := by
  refine fun levels s => ⟨s.mirror.sample levels, s.mirror.changes levels, fun n => ?_, ?_,
    exec_contactSample levels s⟩
  · dsimp only
    rw [Mirror.changes_getLsbD, Mirror.sample_inputs_get]
    exact ⟨ContactInput.sample_agreeing, ContactInput.sample_accepting, ContactInput.sample_counting⟩
  · dsimp only
    rw [← ones_eq_length_filter, ← ones_eq_length_filter]
    rfl

end Sys2Proof.Machine
end

section
namespace Sys2Proof.Machine

/-! ### The queue of waiting commands (log 4) -/

@[simp] theorem State.countLine_pending (l : Line) (f : ReceiverCounters → ReceiverCounters) (s : State) :
    (s.countLine l f).pending = s.pending := rfl

@[simp] theorem State.checkFailure_pending (l : Line) (s : State) : (s.checkFailure l).pending = s.pending := by
  unfold State.checkFailure
  dsimp only
  split
  · rw [State.departForSearch_pending, State.changeReceiver_pending, State.changeReceiver_pending]
  · rfl

@[simp] theorem State.arrive_pending (a : Arrival) (s : State) : (s.arrive a).pending = s.pending := by
  rcases he : s.find a.id with _ | e
  · simp [State.arrive, he]
  · rcases hs : e.sup with _ | sup
    · simp [State.arrive, he, hs]
    · rw [State.arrive_eq he hs]

@[simp] theorem State.silenceExpire_pending (id : StreamId) (x : Line) (e : Entry) (sup : Supervision) (s : State) :
    (s.silenceExpire id x e sup).pending = s.pending := by
  rw [State.silenceExpire_eq]

@[simp] theorem State.contactFrame_pending (k : ContactFrameKind) (s : State) :
    (s.contactFrame k).pending = s.pending := by
  rw [State.contactFrame_eq]

@[simp] theorem State.contactSample_pending (levels : Byte) (s : State) :
    (s.contactSample levels).pending = s.pending := by
  unfold State.contactSample
  dsimp only
  split
  · rw [State.contactFrame_pending]
  · rfl

@[simp] theorem State.forward_pending (x : Line) (f : RingFrame) (s : State) :
    (s.forward x f).pending = s.pending := by
  unfold State.forward
  split <;> rfl

@[simp] theorem State.takeFrame_pending (x : Line) (f : RingFrame) (s : State) :
    (s.takeFrame x f).pending = s.pending := by
  unfold State.takeFrame State.takeStream State.offerDelivery State.takeOwnBeacon State.takeForeignBeacon
  repeat' split
  all_goals simp

@[simp] theorem State.emitBeacon_pending (s : State) : s.emitBeacon.pending = s.pending := by
  rw [State.emitBeacon_eq rfl]

@[simp] theorem State.intake_pending (t : Trib) (index : Byte) (payload : List Byte) (s : State) :
    (s.intake t index payload).pending = s.pending := by
  unfold State.intake
  repeat' split
  case h_2.isTrue => rw [State.stamp_eq]
  all_goals rfl

theorem State.applyMirror_pending (t : Trib) (f : MirrorFields) (s : State) :
    (s.applyMirror t f).pending = s.pending := by
  rw [State.applyMirror_eq, State.raiseProfile_pending]
  split
  · rw [State.contactFrame_pending]
    rfl
  · rfl

/-! ### Commands that leave the queue as it is -/

/-- An outcome of a command in `s`: a next state, with the commands that wait in `s` still waiting. -/
def AnswersNext (s : State) (o : Outcome) : Prop := ∃ u : State, o = .next u ∧ u.pending = s.pending

theorem AnswersNext.next {s u : State} (h : u.pending = s.pending) : AnswersNext s (.next u) := ⟨u, rfl, h⟩

/-- An acting block has no part in the queue. -/
theorem actOf_pending (i : Instr) (s : State) : (actOf i s).state.pending = s.pending := by
  cases i
  case claim | release | join | leave | lineEnable | lineRestart =>
    dsimp only [actOf, claimEffect, releaseEffect, joinEffect, leaveEffect, enableEffect, restartEffect]
    repeat' split
    all_goals rfl
  case lineDisable t line =>
    dsimp only [actOf, disableEffect]
    repeat' split
    case h_2.isFalse.isFalse => exact State.turnOff_pending ..
    all_goals rfl
  case setup t f =>
    dsimp only [actOf, setupEffect]
    split
    · rw [Answer.done_state, State.applySetup_eq]
    · rfl
  case mirror t f =>
    dsimp only [actOf, mirrorEffect]
    repeat' split
    case isFalse.isFalse => exact State.applyMirror_pending ..
    all_goals rfl
  case readStream t bay index => exact congrArg State.pending (readStreamEffect_state ⟨bay, index⟩ s)
  case readLine t line => exact congrArg State.pending (readLineEffect_state line s)
  all_goals rfl

/-- A request command takes its request, acts and replies, or does not take place (R165, log 2). -/
theorem exec_request_answers {i : Instr} {t : Trib} {code : Byte} {fields : List Byte}
    (hi : requestOf i = some (t, code, fields)) (s : State) : AnswersNext s (exec i s) := by
  rw [exec_request hi]
  refine .next ?_
  rcases hs : s.serving t i with _ | r
  · rw [State.serve_of_none hs]
  · rw [State.serve_of_serving hs]
    exact actOf_pending i (s.changePort t Port.takeRequest)

/-- An event takes place where it can, and otherwise leaves the state as it is (log 3): in each branch of its meaning
the next state is one that operations on the blocks make, and none of these touches the queue. -/
theorem exec_event_answers {i : Instr} (hi : requestOf i = none) (s : State) : AnswersNext s (exec i s) := by
  cases i
  case powerOnReset | linkUp | linkDown | tributaryFrameReceived | tributaryEndOfTransmission | claimHoldExpiry
      | lockAcquired | lockLost | dwellExpiry | qualityPeriodExpiry | lineFrameReceived | lineEndOfTransmission
      | beaconTimerExpiry | rosterExpiry | silenceTimerExpiry | contactSample | refreshTimerExpiry =>
    dsimp only [exec, execPowerOnReset, execLinkUp, execLinkDown, execTributaryFrameReceived,
      execTributaryEndOfTransmission, execClaimHoldExpiry, execLockAcquired, execLockLost, execDwellExpiry,
      execQualityPeriodExpiry, execLineFrameReceived, execLineEndOfTransmission, execBeaconTimerExpiry,
      execRosterExpiry, execSilenceTimerExpiry, execContactSample, execRefreshTimerExpiry]
    repeat' split
    all_goals exact .next (by simp)
  all_goals cases hi

/-- Settles O3: a request command by its execution, and an event by the cases of its meaning. -/
theorem commandsAnswerNext : Obligations.CommandsAnswerNext := by
  intro i s
  rcases hi : requestOf i with _ | ⟨t, code, fields⟩
  · exact exec_event_answers hi s
  · exact exec_request_answers hi s

end Sys2Proof.Machine
end

section
namespace Sys2Proof.Machine

/-! ### The rotation of the request unit (R164, R165) -/

/-- How many tributaries come before Tn in the search from Tp (R165). -/
def searchSteps (p t : Trib) : Nat := (t.toNat + 4 - p.toNat) % 4

/-- The tributaries that the search from Tp asks before Tn (R165). -/
def searchedBefore (p t : Trib) : List Trib := (searchOrder p).take (searchSteps p t)

/-- Each of the four tributaries has its one place in the search, after those searched before it. -/
theorem searchOrder_split (p t : Trib) :
    ∃ rest, searchOrder p = searchedBefore p t ++ t :: rest ∧ t ∉ searchedBefore p t ∧ t ∉ rest := by
  refine ⟨(searchOrder p).drop (searchSteps p t + 1), ?_⟩
  cases p <;> cases t <;> decide

/-- The place of a tributary in the search is its number counted on from the pointer's, modulo 4. -/
theorem mem_searchedBefore (p t u : Trib) :
    u ∈ searchedBefore p t ↔ ∃ k < searchSteps p t, u.toNat = (p.toNat + k) % 4 := by
  cases p <;> cases t <;> cases u <;> decide

theorem mem_searchOrder (p t : Trib) : t ∈ searchOrder p := by
  obtain ⟨rest, hsplit, -⟩ := searchOrder_split p t
  simp [hsplit]

/-- The request that Tn can have executed: the head of its buffer, with its reply slot empty (R164). -/
theorem State.eligible_eq_some_iff {s : State} {t : Trib} {r : Request} :
    s.eligible t = some r ↔ (s.ports.get t).reply = none ∧ (s.ports.get t).requests.head? = some r := by
  simp [State.eligible]

theorem State.eligible_eq_none_iff {s : State} {t : Trib} :
    s.eligible t = none ↔ ¬ ((s.ports.get t).requests ≠ [] ∧ (s.ports.get t).reply = none) := by
  rw [State.eligible, ite_eq_right_iff, List.head?_eq_none_iff]
  tauto

/-- The request unit takes the request of the first tributary in its search that can have one executed (R165). -/
theorem State.nextRequest_eq_some_iff {s : State} {t : Trib} {r : Request} :
    s.nextRequest = some (t, r) ↔
      s.eligible t = some r ∧ ∀ u ∈ searchedBefore s.pointer t, s.eligible u = none := by
  obtain ⟨rest, hsplit, hbefore, hrest⟩ := searchOrder_split s.pointer t
  rw [State.nextRequest, List.findSome?_eq_some_iff]
  constructor
  · rintro ⟨before, u, after, hu, hfound, hnone⟩
    obtain ⟨r', helig, hpair⟩ := Option.map_eq_some_iff.mp hfound
    cases hpair
    rw [hsplit, List.append_cons_inj_of_notMem hbefore hrest] at hu
    obtain ⟨rfl, -, -⟩ := hu
    exact ⟨helig, fun u hu => Option.map_eq_none_iff.mp (hnone u hu)⟩
  · rintro ⟨helig, hnone⟩
    exact ⟨_, t, rest, hsplit, by rw [helig, Option.map_some], fun u hu => by rw [hnone u hu, Option.map_none]⟩

/-- The request unit takes none when no tributary can have one executed (R164). -/
theorem State.nextRequest_eq_none_iff {s : State} : s.nextRequest = none ↔ ∀ u : Trib, s.eligible u = none := by
  simp [State.nextRequest, mem_searchOrder]

/-- A request command is served exactly by the request that comes next and stands for it (log 2). -/
theorem State.serving_eq_some_iff {s : State} {t : Trib} {i : Instr} {r : Request} :
    s.serving t i = some r ↔ s.nextRequest = some (t, r) ∧ r.command t = i :=
  ⟨State.serving_some, fun ⟨hnext, hcommand⟩ => by simp [State.serving, hnext, hcommand]⟩

/-- Settles O25: the first tributary in the search, and the command that its request stands for. -/
theorem requestRotation : Obligations.RequestRotation := by
  refine ⟨fun s t r => ⟨?_, ?_⟩, fun i t code fields s hi => ⟨fun hnone => ?_, fun r => State.serving_eq_some_iff⟩⟩
  · dsimp only
    rw [State.nextRequest_eq_some_iff]
    simp only [State.eligible_eq_some_iff, State.eligible_eq_none_iff, mem_searchedBefore]
    constructor
    · rintro ⟨⟨hreply, hhead⟩, hbefore⟩
      refine ⟨⟨?_, hreply⟩, hhead, fun k hk u hu => hbefore u ⟨k, hk, hu⟩⟩
      rintro hempty
      simp [hempty] at hhead
    · rintro ⟨⟨-, hreply⟩, hhead, hbefore⟩
      exact ⟨⟨hreply, hhead⟩, fun u ⟨k, hk, hu⟩ => hbefore k hk u hu⟩
  · simp only [State.nextRequest_eq_none_iff, State.eligible_eq_none_iff]
  · rw [exec_request hi, State.serve_of_none hnone]

end Sys2Proof.Machine
end

section
namespace Sys2Proof.Machine

/-! ### CLEAR (R172) -/

theorem ReportKind.mem_all (k : ReportKind) :
    k ∈ [ReportKind.health, .skew, .line, .ring, .overrun, .nearFull, .clash, .profile, .bayClash] := by
  cases k <;> decide

/-- A port after a CLEAR keeps its REPORT exactly while some kind is pending (R172). -/
theorem Port.clearReports_eq (kinds : BitVec 16) (p : Port) :
    p.clearReports kinds = { p with
      reports := p.reports.clear kinds
      report := p.report && decide (∃ k ∈ [ReportKind.health, .skew, .line, .ring, .overrun, .nearFull, .clash,
        .profile, .bayClash], (p.reports.clear kinds).has k = true) } := by
  have hpending : (∃ k ∈ [ReportKind.health, .skew, .line, .ring, .overrun, .nearFull, .clash, .profile, .bayClash],
      (p.reports.clear kinds).has k = true) ↔ p.reports.clear kinds ≠ 0 := by
    simp only [ReportKind.mem_all, true_and, ReportSet.ne_zero_iff]
  simp only [Port.clearReports, decide_eq_decide.mpr hpending]
  by_cases hempty : p.reports.clear kinds = 0 <;> simp [hempty, Bool.and_comm]

/-- Settles O35: the pending set by `ReportSet.has_clear`, and the report slot by whether it is empty. -/
theorem clearReports : Obligations.ClearReports := by
  refine fun t kinds s r hr => ⟨(s.ports.get t).reports.clear kinds, ReportSet.has_clear _ kinds, exec_served rfl hr ?_⟩
  show Answer.done ((s.taken t).changePort t (Port.clearReports kinds)) = _
  simp only [State.changePort, State.taken, Quad.get_set_self, Quad.set_set, Port.clearReports_eq, Answer.done]

/-! ### Requests that stand for no other row (R166, R167) -/

/-- A request is carried out as REQUEST_UNKNOWN only when it decodes to no row (R166). -/
theorem Request.command_eq_requestUnknown {r : Request} {t : Trib} {code : Byte} {fields : List Byte}
    (h : r.command t = .requestUnknown t code fields) :
    r.code = code ∧ r.fields = fields ∧ decodeRow t r.code r.fields = none := by
  rcases hrow : decodeRow t r.code r.fields with _ | i
  · simp only [Request.command, hrow, Option.getD_none, Instr.requestUnknown.injEq, true_and] at h
    exact ⟨h.1, h.2, rfl⟩
  · obtain rfl : i = .requestUnknown t code fields := by rwa [Request.command, hrow] at h
    obtain ⟨hrequest, hwell⟩ := requestOf_of_decodeRow hrow
    cases hrequest
    simp [WellFormed, hrow] at hwell

/-- Settles O36: the request decodes to no row, and REQUEST_UNKNOWN answers it. -/
theorem unknownRequest : Obligations.UnknownRequest := by
  intro t code fields s r hr
  obtain ⟨rfl, rfl, hrow⟩ := Request.command_eq_requestUnknown (State.serving_some hr).2
  exact ⟨rfl, rfl, hrow, exec_served rfl hr rfl⟩

/-! ### The READ requests (R170) -/

section
variable {id : StreamId} {s : State}

theorem readStreamEffect_range (h : s.bayRefused id.bay = true ∨ 63 < id.index.toNat) :
    readStreamEffect id s = .only s .range := if_pos h

theorem readStreamEffect_notHeld (h : ¬ (s.bayRefused id.bay = true ∨ 63 < id.index.toNat))
    (hnone : findEntry id s.table = none) : readStreamEffect id s = .only s .notHeld := by
  simp only [readStreamEffect, if_neg h, State.find, hnone]

theorem readStreamEffect_done (h : ¬ (s.bayRefused id.bay = true ∨ 63 < id.index.toNat)) {e : Entry}
    (he : findEntry id s.table = some e) : readStreamEffect id s = ⟨s, .done, streamSnapshot s.timeBase e⟩ := by
  simp only [readStreamEffect, if_neg h, State.find, he]

end

theorem readLineEffect_range {line : Byte} (h : 1 < line.toNat) (s : State) :
    readLineEffect line s = .only s .range := by
  simp only [readLineEffect, (lineOfCode_eq_none_iff line).mpr h]

theorem readLineEffect_done (l : Line) (s : State) :
    readLineEffect (lineCode l) s = ⟨s, .done, s.lineSnapshot l⟩ := by
  simp only [readLineEffect, lineOfCode_code]

/-- Settles O37: the results of the READs with an operand, and the one answer of each of the others. -/
theorem readRequests : Obligations.ReadRequests := by
  intro t s r
  refine ⟨fun bay index hr => ?_, fun line hr => ⟨fun hline => ?_, ?_⟩, fun hr => ?_, fun hr => ?_, fun hr => ?_,
    fun hr => ?_⟩
  · dsimp only
    rw [← State.bayRefused_iff]
    exact ⟨fun hrange => exec_served rfl hr (readStreamEffect_range (s := s.taken t) hrange),
      fun hrange hnone => exec_served rfl hr (readStreamEffect_notHeld (s := s.taken t) hrange hnone),
      fun hrange e he => exec_served rfl hr (readStreamEffect_done (id := ⟨bay, index⟩) (s := s.taken t) hrange he)⟩
  · exact exec_served rfl hr (readLineEffect_range hline _)
  · rintro l rfl
    exact exec_served rfl hr (readLineEffect_done l _)
  all_goals exact exec_served rfl hr rfl

end Sys2Proof.Machine
end

section
namespace Sys2Proof.Machine

/-! ### The step of a part whose queue holds a command -/

/-- The front command is taken off the queue before it is carried out, so what it runs on holds the queue's rest. -/
theorem step_of_pending {i : Instr} {rest : List Instr} {s : State} (h : s.pending = i :: rest) :
    step s = exec i { s with pending := rest } := by
  unfold step
  rw [h]

/-- Settles O1: the queue is not empty, so the step is that of its front command. -/
theorem stepRunsFrontCommand : Obligations.StepRunsFrontCommand := fun _ _ _ => step_of_pending

end Sys2Proof.Machine
end
